-- ==== Sys2Proof/Word.lean ====
section
/-! DEFINITION. The word types of SHA256-CORE (R10, R100). -/

namespace Sys2Proof

/-- A word: a 32-bit unsigned value, bit 31 the most significant (R10). -/
abbrev Word := BitVec 32

/-- A command word `CLASS[15:12] FN[11:8] IMM8[7:0]` (R100). -/
abbrev CmdWord := BitVec 16

/-- A byte: the IMM8 field of a command word (R100), or a message byte of the Host (R76). -/
abbrev Byte := BitVec 8

end Sys2Proof
end

