-- ==== Sys2Proof/Syntax.lean ====
section
/-! DEFINITION. The 23 commands of CORE-1, one constructor per row of the opcode table (R104). -/

namespace Sys2Proof

/-- A command of CORE-1 with its IMM8 operand. The operand words `opa`, `opb`, `opc` travel beside the command word
and are no part of it (R101). An index is a `Fin`, because "each index field is exactly as wide as its range, so no
command can name an index outside it" (R71); an amount is a number, which `Instr.wellFormed` bounds (R102). -/
inductive Instr where
  | nop                    -- R230
  | clrerr                 -- R231
  | rdstat                 -- R232
  | add                    -- R140: opa, opb
  | xor                    -- R141: opa, opb
  | rotr (n : Nat)         -- R142: opa, amount
  | shr (n : Nat)          -- R143: opa, amount
  | ch                     -- R180: opa, opb, opc
  | maj                    -- R181: opa, opb, opc
  | usig0                  -- R182: opa
  | usig1                  -- R183: opa
  | lsig0                  -- R160: opa
  | lsig1                  -- R161: opa
  | ldw (i : Fin 16)       -- R162: index4, opa
  | rdw (i : Fin 64)       -- R163: index6
  | expand                 -- R164
  | rdk (i : Fin 64)       -- R184: index6
  | rda (j : Fin 8)        -- R185: index3
  | compress               -- R187
  | init                   -- R210
  | ldh (j : Fin 8)        -- R211: index3, opa
  | rdh (j : Fin 8)        -- R212: index3
  | hashblk                -- R213
deriving DecidableEq, Repr

end Sys2Proof
end

