-- ==== Sys2Proof/WellFormed.lean ====
section
/-! DEFINITION. Which instructions a command word can carry (R102, U12). -/

namespace Sys2Proof

/-- An amount comes from the 8-bit field IMM8, so it lies in 0..255 (R102); an amount of 256 or more is not
expressible (U12). Indexes are bounded by their type. -/
def Instr.wellFormed : Instr → Bool
  | .rotr n => decide (n < 256)
  | .shr n => decide (n < 256)
  | .nop | .clrerr | .rdstat | .add | .xor | .ch | .maj | .usig0 | .usig1 | .lsig0 | .lsig1 => true
  | .ldw _ | .rdw _ | .expand | .rdk _ | .rda _ | .compress => true
  | .init | .ldh _ | .rdh _ | .hashblk => true

end Sys2Proof
end

