-- ==== Sys2Proof/Decode.lean ====
section
/-! DEFINITION. The decoder and the encoder of CORE-1 (R100 to R107). -/

namespace Sys2Proof

/-- The IMM8 field, bits 7:0 (R100). -/
def immField (c : CmdWord) : Byte := c.setWidth 8

/-- The CLASS field, bits 15:12 (R100). -/
def classField (c : CmdWord) : BitVec 4 := c.extractLsb' 12 4

/-- The FN field, bits 11:8 (R100). -/
def fnField (c : CmdWord) : BitVec 4 := c.extractLsb' 8 4

/-- Amount: `zext_32(imm[7:0])`, 0..255 (R102). -/
def amountOf (imm : Byte) : Nat := imm.toNat

/-- Index4: `imm[3:0]` (R102). -/
def index4Of (imm : Byte) : Fin 16 := (imm.extractLsb' 0 4).toFin

/-- Index6: `imm[5:0]` (R102). -/
def index6Of (imm : Byte) : Fin 64 := (imm.extractLsb' 0 6).toFin

/-- Index3: `imm[2:0]` (R102). -/
def index3Of (imm : Byte) : Fin 8 := (imm.extractLsb' 0 3).toFin

/-- A row of the command table of R104: `c` is the row's command exactly when `(c & mask) = pattern`, and `build`
gives the command its IMM8 operand. -/
structure Row where
  pattern : CmdWord
  mask : CmdWord
  build : Byte → Instr

/-- CTRL and ALU rows of R104. -/
def rowsCtrlAlu : List Row :=
  [ ⟨0x0000, 0xFFFF, fun _ => .nop⟩,
    ⟨0x0100, 0xFFFF, fun _ => .clrerr⟩,
    ⟨0x0200, 0xFFFF, fun _ => .rdstat⟩,
    ⟨0x1000, 0xFFFF, fun _ => .add⟩,
    ⟨0x1100, 0xFFFF, fun _ => .xor⟩,
    ⟨0x1200, 0xFF00, fun imm => .rotr (amountOf imm)⟩,
    ⟨0x1300, 0xFF00, fun imm => .shr (amountOf imm)⟩ ]

/-- MIX rows of R104. -/
def rowsMix : List Row :=
  [ ⟨0x2000, 0xFFFF, fun _ => .ch⟩,
    ⟨0x2100, 0xFFFF, fun _ => .maj⟩,
    ⟨0x2200, 0xFFFF, fun _ => .usig0⟩,
    ⟨0x2300, 0xFFFF, fun _ => .usig1⟩,
    ⟨0x2400, 0xFFFF, fun _ => .lsig0⟩,
    ⟨0x2500, 0xFFFF, fun _ => .lsig1⟩ ]

/-- SCHED and ROUND rows of R104. -/
def rowsSchedRound : List Row :=
  [ ⟨0x3000, 0xFFF0, fun imm => .ldw (index4Of imm)⟩,
    ⟨0x3100, 0xFFC0, fun imm => .rdw (index6Of imm)⟩,
    ⟨0x3200, 0xFFFF, fun _ => .expand⟩,
    ⟨0x4000, 0xFFC0, fun imm => .rdk (index6Of imm)⟩,
    ⟨0x4100, 0xFFF8, fun imm => .rda (index3Of imm)⟩,
    ⟨0x4200, 0xFFFF, fun _ => .compress⟩ ]

/-- CHAIN rows of R104. -/
def rowsChain : List Row :=
  [ ⟨0x5000, 0xFFFF, fun _ => .init⟩,
    ⟨0x5100, 0xFFF8, fun imm => .ldh (index3Of imm)⟩,
    ⟨0x5200, 0xFFF8, fun imm => .rdh (index3Of imm)⟩,
    ⟨0x5300, 0xFFFF, fun _ => .hashblk⟩ ]

/-- The complete command table, one row per command (R104). -/
def commandTable : List Row := rowsCtrlAlu ++ rowsMix ++ rowsSchedRound ++ rowsChain

/-- `(c & mask) = match` (R104). -/
def rowMatches (c : CmdWord) (r : Row) : Bool := c &&& r.mask == r.pattern

/-- The decoder, total over all 65536 command words (R105); `none` is ILLEGAL (R106). -/
def decode (c : CmdWord) : Option Instr :=
  match commandTable.find? (rowMatches c) with
  | some r => some (r.build (immField c))
  | none => none

/-- A pattern with the value of its IMM8 field put in (R104). -/
def withImm (pattern : CmdWord) (imm : Byte) : CmdWord := pattern ||| imm.setWidth 16

/-- The encoder: the command word of a well-formed command, from the patterns of R104. -/
def encode : Instr → CmdWord
  | .nop => 0x0000
  | .clrerr => 0x0100
  | .rdstat => 0x0200
  | .add => 0x1000
  | .xor => 0x1100
  | .rotr n => withImm 0x1200 (BitVec.ofNat 8 n)
  | .shr n => withImm 0x1300 (BitVec.ofNat 8 n)
  | .ch => 0x2000
  | .maj => 0x2100
  | .usig0 => 0x2200
  | .usig1 => 0x2300
  | .lsig0 => 0x2400
  | .lsig1 => 0x2500
  | .ldw i => withImm 0x3000 (BitVec.ofNat 8 i)
  | .rdw i => withImm 0x3100 (BitVec.ofNat 8 i)
  | .expand => 0x3200
  | .rdk i => withImm 0x4000 (BitVec.ofNat 8 i)
  | .rda j => withImm 0x4100 (BitVec.ofNat 8 j)
  | .compress => 0x4200
  | .init => 0x5000
  | .ldh j => withImm 0x5100 (BitVec.ofNat 8 j)
  | .rdh j => withImm 0x5200 (BitVec.ofNat 8 j)
  | .hashblk => 0x5300

/-- The 16-bit command word of a table row's bits: bit 0 is the least significant bit of the one word, and bits the
row does not give are 0. -/
def tableWord (nbits w : Nat) : CmdWord := BitVec.ofNat 16 (w % 2 ^ nbits)

/-- The command the decoder reads from a table row's bits. -/
def decodeTableWord (nbits w : Nat) : Option Instr := decode (tableWord nbits w)

end Sys2Proof
end

