-- ==== Sys2Proof/Config.lean ====
section
/-! DEFINITION. The parameters of R7 that a model takes as values, and the values the spec leaves open. -/

namespace Sys2Proof

/-- The latency parameters of R7 and D20 (U10): a machine with a clock takes them as an argument. -/
structure Latencies where
  simple : Nat       -- LAT_SIMPLE: cycles of a single-cycle command, its accept cycle included
  expand : Nat       -- LAT_EXPAND: busy cycles of EXPAND after its accept edge
  compress : Nat     -- LAT_COMPRESS: busy cycles of COMPRESS after its accept edge
  hashblk : Nat      -- LAT_HASHBLK: busy cycles of HASHBLK after its accept edge
deriving DecidableEq, Repr

/-- The nominal values (R7, R294, D20). -/
def Latencies.nominal : Latencies := ⟨1, 48, 66, 114⟩

/-- The values the spec allows: a single-cycle command completes at its accept edge (R287, R294), a multi-cycle one is
busy for a cycle or more (R39), and HASHBLK for at least 66 (R294, R296). -/
def Latencies.legal (lat : Latencies) : Prop :=
  lat.simple = 1 ∧ 1 ≤ lat.expand ∧ 1 ≤ lat.compress ∧ 66 ≤ lat.hashblk

/-- What W and WR held when a reset marked their entries as without a value (R36, R281). -/
structure Contents where
  w : Vector (Option Word) 64
  wr : Vector (Option Word) 8
deriving DecidableEq, Repr

/-- FREE VALUE: the unspecified word that the hardware returns for W[i] while no command has written it since the resets
that erased `erased`, latest first (R36, R281, U1, U3). It may depend on what was there, so it is a constant with no body, of
those contents and the index (log 2). -/
opaque Config.leftInW (erased : List Contents) (i : Nat) : Word

/-- FREE VALUE: the word that WR[j] holds while no command has written it since the resets that erased `erased`, latest
first (R36, R185, R281, U2, U3), as for W[i] (log 17). -/
opaque Config.leftInWr (erased : List Contents) (j : Nat) : Word

/-- `encodeText` (D32, U14): the Host environment's mapping of text to bytes. OPEN in the spec, so it is a constant
with no body: nothing can be proved about its values (log 7). -/
opaque Config.encodeText : List Char → List Byte

end Sys2Proof
end

