-- ==== Sys2Proof/Machine/WordOps.lean ====
section
/-! DEFINITION. The pure word functions: rotation, shift, choice, majority and the four Sigma functions. -/

namespace Sys2Proof.Machine

/-- `rotr(x, n)`: circular right rotation by `n mod 32` positions (R11, R142). -/
def rotr (x : Word) (n : Nat) : Word :=
  if n % 32 = 0 then x else (x >>> (n % 32)) ||| (x <<< (32 - n % 32))

/-- `shr(x, n)`: logical right shift; `n >= 32` gives zero (R11, R143). -/
def shr (x : Word) (n : Nat) : Word :=
  if 32 ≤ n then 0 else x >>> n

/-- `ch(x, y, z)`: in each bit `y` where `x` is 1, else `z` (R180, in its equivalent form). -/
def ch (x y z : Word) : Word := (x &&& y) ||| (~~~x &&& z)

/-- `maj(x, y, z)`: in each bit the majority of the three (R181, in its equivalent form). -/
def maj (x y z : Word) : Word := (x &&& y) ||| (x &&& z) ||| (y &&& z)

/-- `usig0` (R182). -/
def usig0 (x : Word) : Word := rotr x 2 ^^^ rotr x 13 ^^^ rotr x 22

/-- `usig1` (R183). -/
def usig1 (x : Word) : Word := rotr x 6 ^^^ rotr x 11 ^^^ rotr x 25

/-- `lsig0` (R160). -/
def lsig0 (x : Word) : Word := rotr x 7 ^^^ rotr x 18 ^^^ shr x 3

/-- `lsig1` (R161). -/
def lsig1 (x : Word) : Word := rotr x 17 ^^^ rotr x 19 ^^^ shr x 10

end Sys2Proof.Machine
end

