-- ==== Sys2Proof/Machine/Compression.lean ====
section
/-! DEFINITION. The round function and the 64 rounds with the fold (R186, R187). -/

namespace Sys2Proof.Machine

/-- `Round((a, b, c, d, e, f, g, h), k, w)`: all eight outputs from the old values (R186). -/
def roundFn (s : Vector Word 8) (k w : Word) : Vector Word 8 :=
  let t1 := usig1 s[4] + ch s[4] s[5] s[6] + s[7] + k + w
  let t2 := usig0 s[0] + maj s[0] s[1] s[2]
  #v[t1 + t2, s[0], s[1], s[2], s[3] + t1, s[4], s[5], s[6]]

/-- `r in 0..63`, in order (R187). -/
def roundIndices : List (Fin 64) := (List.range 64).map fun n => Fin.ofNat 64 n

/-- `for r in 0..63: s <- Round(s, K[r], W[r])`, from `s = Hin` (R187). Irreducible, as `expand` is. -/
@[irreducible] def runRounds (hin : Vector Word 8) (W : Vector Word 64) : Vector Word 8 :=
  roundIndices.foldl (fun s r => roundFn s kRom[r] W[r]) hin

/-- The fold: `H[j] <- Hin[j] + s[j]` mod 2^32, for j in 0..7 (R187). -/
@[irreducible] def foldState (hin s : Vector Word 8) : Vector Word 8 := Vector.ofFn fun j => hin[j] + s[j]

/-- `Compress(Hin, W)`: the working words after round 63, and the new chaining state (R187). -/
def compressFn (hin : Vector Word 8) (W : Vector Word 64) : Vector Word 8 × Vector Word 8 :=
  let s := runRounds hin W
  (s, foldState hin s)

end Sys2Proof.Machine
end

