-- ==== Sys2Proof/Machine/Expansion.lean ====
section
/-! DEFINITION. The pure function Expand from 16 message words to the 64-word schedule (R165). -/

namespace Sys2Proof.Machine

/-- The recurrence of R165: `lsig1(S[t-2]) + S[t-7] + lsig0(S[t-15]) + S[t-16]`, from the four words it reads. -/
def scheduleWord (s2 s7 s15 s16 : Word) : Word := lsig1 s2 + s7 + lsig0 s15 + s16

/-- One pass of the loop of R165: `S[t] <- ...`. The index differences are taken in 0..63; for t of 16 and more, the
only t it is used at, they are the plain differences. -/
def expandStep (S : Vector Word 64) (t : Fin 64) : Vector Word 64 :=
  S.set t (scheduleWord S[t - 2] S[t - 7] S[t - 15] S[t - 16])

/-- `t in 16..63`, in order (R165). -/
def expandIndices : List (Fin 64) := (List.range 48).map fun n => Fin.ofNat 64 (16 + n)

/-- `for t in 0..15: S[t] <- M[t]` (R165). The zeros above are overwritten before the loop reads them. -/
def messagePart (m : Vector Word 16) : Vector Word 64 :=
  Vector.ofFn fun t => if h : t.val < 16 then m[t.val] else 0

/-- `Expand(M[0..15])` (R165). Irreducible, so that no unification runs the loop; `unfold expand` opens it. -/
@[irreducible] def expand (m : Vector Word 16) : Vector Word 64 := expandIndices.foldl expandStep (messagePart m)

end Sys2Proof.Machine
end

