-- ==== Sys2Proof/Machine/State.lean ====
section
/-! DEFINITION. The state of the Core (R30, R49, R285), the locations that can hold no value (R36) and the reset value (R50). -/

namespace Sys2Proof.Machine

/-- A storage word that can hold no value (`⊥`, R36), as `UnwrittenRead(loc)` names it. -/
inductive Loc where
  | w (i : Fin 64)     -- W[i]
  | wr (j : Fin 8)     -- WR[j]
deriving DecidableEq, Repr

/-- Faults: the model fault of the spec. No error of the Core is one (R250, R258). -/
inductive Fault where
  /-- `fault UnwrittenRead(loc)`: a read of an entry of the schedule memory that holds `⊥`. Raised by RDW (R36, R163), and
  by EXPAND, COMPRESS, HASHBLK and the sub-steps in states that no run reaches (R45; log 5). SAFE: it ends the model's run
  for good (R12, R260), where the hardware returns an unspecified word. -/
  | unwrittenRead (loc : Loc)
deriving DecidableEq, Repr

/-- Refusals: the interface's own one. -/
inductive Refusal where
  /-- An instruction without a meaning, by its mnemonic: raised by no arm of `exec`, since every command has a
  meaning. SAFE. -/
  | notModelled (mnemonic : String)
deriving DecidableEq, Repr

/-- The stored fields of STATUS (R38). BUSY is computed from the sequencer (R49), and the reserved bits are no
storage (R44). -/
structure Status where
  err : Bool             -- bit 1 (R40)
  sv : Bool              -- bit 2 (R42)
  ecode : BitVec 4       -- bits 7:4 (R41)
  wvalid : BitVec 16     -- bits 31:16 (R43)
deriving DecidableEq, Repr

/-- The phase of the sequencer, with its 6-bit counter (R49). -/
inductive Phase where
  | idle
  | exp (t : Fin 64)     -- EXP(t), t = 16..63
  | load
  | rnd (r : Fin 64)     -- RND(r), r = 0..63
  | fold
deriving DecidableEq, Repr

/-- The command a multi-cycle operation belongs to: the sequencer's `op` (R49). -/
inductive SeqOp where
  | expand
  | compress
  | hashblk
deriving DecidableEq, Repr

/-- A transaction: one command word with its three operand words (R9, R101). -/
structure Transaction where
  cmd : CmdWord
  opa : Word
  opb : Word
  opc : Word
deriving DecidableEq, Repr

/-- The input pins at one rising edge of `clk` (R285): `rst_n`, `cmd_valid`, and `cmd`, `opa`, `opb`, `opc`. -/
structure Pins where
  rstN : Bool
  cmdValid : Bool
  tx : Transaction
deriving DecidableEq, Repr

/-- The state of the machine: the storage of R30, the sequencer of R49, the register behind the `res_valid` output
(R285, R288), and four fields of the model's own: `tx` (log 4), `host` (log 1), `erased` (log 2) and `modelFault` (log 17). -/
structure State where
  h : Vector Word 8                 -- H[0..7], the chaining state (R31)
  wr : Vector (Option Word) 8       -- WR[0..7] = a..h; where `⊥` (none) stands, `readWr` gives the word (R32, R36)
  w : Vector (Option Word) 64       -- W[0..63], none is the mark of no value (R34, R36)
  res : Word                        -- RES (R37)
  status : Status                   -- ERR, SV, ECODE, WVALID (R38)
  phase : Phase                     -- the sequencer's phase and counter (R49)
  op : Option SeqOp                 -- the sequencer's op, none when idle (R49)
  resValid : Bool                   -- the res_valid output (R288, log 12)
  tx : Transaction                  -- the transaction sampled at the last accepting edge (R286)
  host : List Pins                  -- what the Host drives at the coming edges, next first (R8, R286)
  erased : List Contents            -- what W and WR held at each reset, latest first (R36, R281)
  modelFault : Option Loc           -- UnwrittenRead(loc) of an RDA: the first one's register, kept for good (R12, R260)
deriving DecidableEq, Repr

/-- A transaction of zero words. -/
def Transaction.zero : Transaction := ⟨0, 0, 0, 0⟩

/-- STATUS after reset: `0x00000000` (R50). -/
def Status.reset : Status := ⟨false, false, 0, 0⟩

/-- The reset state (R50). `op`, `tx`, `host`, `erased` and `modelFault` have no value in R50: none, zero words,
the empty lists and none are the model's (log 1 to 4, 17). A WR[j] that holds `⊥` reads as a free value (`readWr`). -/
def State.reset : State where
  h := ivRom
  wr := Vector.replicate 8 none
  w := Vector.replicate 64 none
  res := 0
  status := Status.reset
  phase := .idle
  op := none
  resValid := false
  tx := Transaction.zero
  host := []
  erased := []
  modelFault := none

/-- The outcome of a step or of a meaning. -/
abbrev Result := Host.Outcome State Fault Refusal

end Sys2Proof.Machine
end

