-- ==== Sys2Proof/Machine/Flags.lean ====
section
/-! DEFINITION. The STATUS register and its fields (R38 to R44). The Core has no condition flags (R48). -/

namespace Sys2Proof.Machine

/-- `STATUS.BUSY`: 1 exactly when the phase is not IDLE (R39, R49). -/
def State.busy (s : State) : Bool := decide (s.phase ≠ .idle)

/-- STATUS as RDSTAT reads it: `{WVALID[15:0], 8'b0, ECODE[3:0], 1'b0, SV, ERR, BUSY}` (R38, R232). -/
def State.statusWord (s : State) : Word :=
  s.status.wvalid ++ 0#8 ++ s.status.ecode ++ 0#1 ++ BitVec.ofBool s.status.sv ++ BitVec.ofBool s.status.err
    ++ BitVec.ofBool s.busy

/-- The error codes of R251. -/
inductive CoreError where
  | illegalCommand       -- 1 ILLEGAL_COMMAND
  | scheduleNotValid     -- 2 SCHEDULE_NOT_VALID
  | messageIncomplete    -- 3 MESSAGE_INCOMPLETE
deriving DecidableEq, Repr

/-- The code an error records in ECODE (R251). -/
def errorCode : CoreError → BitVec 4
  | .illegalCommand => 1
  | .scheduleNotValid => 2
  | .messageIncomplete => 3

/-- ERR and ECODE after `raise CoreError(e)`: the first error's code is kept (R252). -/
def Status.recordError (e : CoreError) (st : Status) : Status :=
  if st.err then st else { st with err := true, ecode := errorCode e }

/-- ERR and ECODE after CLRERR (R231). -/
def Status.clearError (st : Status) : Status := { st with err := false, ecode := 0 }

/-- `WVALID[i] <- 1` and `SV <- 0`: what LDW does to STATUS (R162). -/
def Status.messageWordLoaded (i : Fin 16) (st : Status) : Status :=
  { st with wvalid := st.wvalid ||| BitVec.twoPow 16 i, sv := false }

/-- `SV <- 1`: what a completed EXPAND does to STATUS (R164). -/
def Status.scheduleMade (st : Status) : Status := { st with sv := true }

/-- `SV <- 0` and `WVALID <- 0x0000`: what a completed COMPRESS or HASHBLK does to STATUS (R187, R213). -/
def Status.blockConsumed (st : Status) : Status := { st with sv := false, wvalid := 0 }

/-- `WVALID = 0xFFFF`: all sixteen message words are loaded (R43). -/
def Status.messageComplete (st : Status) : Bool := st.wvalid == 0xFFFF#16

end Sys2Proof.Machine
end

