-- ==== Sys2Proof/Machine/Operands.lean ====
section
/-! DEFINITION. The operand words of a transaction, and which command uses which (R101, R104). The immediate operand
forms of R102 are read by the decoder. -/

namespace Sys2Proof.Machine

/-- `opa` of the current transaction (R12, R101). -/
def State.opa (s : State) : Word := s.tx.opa

/-- `opb` of the current transaction (R12, R101). -/
def State.opb (s : State) : Word := s.tx.opb

/-- `opc` of the current transaction (R12, R101). -/
def State.opc (s : State) : Word := s.tx.opc

/-- Whether a command reads `opa`: the "operands" column of R104. -/
def usesOpa : Instr → Bool
  | .add | .xor | .rotr _ | .shr _ | .ch | .maj | .usig0 | .usig1 | .lsig0 | .lsig1 | .ldw _ | .ldh _ => true
  | .nop | .clrerr | .rdstat | .rdw _ | .expand | .rdk _ | .rda _ | .compress | .init | .rdh _ | .hashblk => false

/-- Whether a command reads `opb`: the "operands" column of R104. -/
def usesOpb : Instr → Bool
  | .add | .xor | .ch | .maj => true
  | .nop | .clrerr | .rdstat | .rotr _ | .shr _ | .usig0 | .usig1 | .lsig0 | .lsig1 | .ldw _ | .rdw _ | .expand
  | .rdk _ | .rda _ | .compress | .init | .ldh _ | .rdh _ | .hashblk => false

/-- Whether a command reads `opc`: the "operands" column of R104. -/
def usesOpc : Instr → Bool
  | .ch | .maj => true
  | .nop | .clrerr | .rdstat | .add | .xor | .rotr _ | .shr _ | .usig0 | .usig1 | .lsig0 | .lsig1 | .ldw _ | .rdw _
  | .expand | .rdk _ | .rda _ | .compress | .init | .ldh _ | .rdh _ | .hashblk => false

/-- The result commands, those that write RES: the "RES" column of R104 (R37). -/
def writesRes : Instr → Bool
  | .rdstat | .add | .xor | .rotr _ | .shr _ | .ch | .maj | .usig0 | .usig1 | .lsig0 | .lsig1 | .rdw _ | .rdk _
  | .rda _ | .rdh _ => true
  | .nop | .clrerr | .ldw _ | .expand | .compress | .init | .ldh _ | .hashblk => false

/-- Operand words with the ones a command does not use driven as 0, as the assembler drives them (R108). -/
def driveUsed (i : Instr) (opa opb opc : Word) : Word × Word × Word :=
  (if usesOpa i then opa else 0, if usesOpb i then opb else 0, if usesOpc i then opc else 0)

end Sys2Proof.Machine
end

