-- ==== Sys2Proof/Machine/Ops.lean ====
section
/-! DEFINITION. The operations the commands share: reads and writes of the storage (R71), the result register (R37),
raising an error and clearing it (R252, R231), the expansion and the compression over the storage (R164, R187, R213). -/

namespace Sys2Proof.Machine

/-! ### Reads of storage words that can hold `⊥` (R36) -/

/-- A read of a storage word: its value, or the model fault (R12, R36). -/
def readWord (loc : Loc) (v : Option Word) : Except Fault Word :=
  match v with
  | some x => .ok x
  | none => .error (.unwrittenRead loc)

/-- `W[i]` (R36, R71). -/
def readW (i : Fin 64) (s : State) : Except Fault Word := readWord (.w i) s.w[i]

/-- `WR[j]`: a register always has a word. Where no command has written it, the word is a free value, the same one until
a command does (R36, R71, R75, R185; log 17). -/
def readWr (j : Fin 8) (s : State) : Word := s.wr[j].getD (Config.leftInWr s.erased j)

/-- `UnwrittenRead(loc)` of a register: the mark that a read of `⊥` leaves. The first mark is kept for good, and no STATUS
field is touched (R12, R36, R260; log 17). -/
def noteRead (loc : Loc) (v : Option Word) (s : State) : State :=
  { s with modelFault := if v.isNone then s.modelFault.or (some loc) else s.modelFault }

/-- A read of a whole file: its words, or the model fault of the first entry that holds none (R12, R36). -/
def readAll {n : Nat} (loc : Fin n → Loc) (v : Vector (Option Word) n) : Except Fault (Vector Word n) :=
  match (List.finRange n).find? fun i => v[i].isNone with
  | some i => .error (.unwrittenRead (loc i))
  | none => .ok (Vector.ofFn fun i => v[i].getD 0)

/-- `W[0..15]`, the message words (R164). -/
def readMessage (s : State) : Except Fault (Vector Word 16) :=
  readAll (fun i => .w (i.castLE (by decide))) (Vector.ofFn fun i : Fin 16 => s.w[i.val])

/-- `W[0..63]`, the schedule (R187). -/
def readSchedule (s : State) : Except Fault (Vector Word 64) := readAll .w s.w

/-- `WR[0..7]`, the working registers (R188). -/
@[irreducible] def readWorking (s : State) : Vector Word 8 := Vector.ofFn fun j => readWr j s

/-! ### Writes -/

/-- `RES <- v`, with the pulse of `res_valid` (R37, R288). -/
def writeRes (v : Word) (s : State) : State := { s with res := v, resValid := true }

/-- A read of the schedule memory: `RES` takes the word, or the model fault ends the run with `RES` as it was (R12, R37). -/
def finishRead (v : Except Fault Word) (s : State) : Result :=
  match v with
  | .ok x => .next (writeRes x s)
  | .error f => .fault f

/-- `H[j] <- v` (R211). -/
def writeH (j : Fin 8) (v : Word) (s : State) : State := { s with h := s.h.set j v }

/-- `W[i] <- v; WVALID[i] <- 1; SV <- 0` (R162). -/
def loadMessageWord (i : Fin 16) (v : Word) (s : State) : State :=
  { s with w := s.w.set (i.castLE (by decide) : Fin 64) (some v), status := s.status.messageWordLoaded i }

/-- `W[16..63] <- S[16..63]`, with W[0..15] kept (R164, R213). -/
@[irreducible] def storeSchedule (S : Vector Word 64) (w : Vector (Option Word) 64) : Vector (Option Word) 64 :=
  Vector.ofFn fun t => if t.val < 16 then w[t] else some S[t]

/-- A register file every entry of which holds a word. -/
@[irreducible] def written {n : Nat} (v : Vector Word n) : Vector (Option Word) n := Vector.ofFn fun j => some v[j]

/-! ### Errors: what the Core has in place of exceptions (R250, R257) -/

/-- `raise CoreError(e)`: record the error and end the command with no other effect (R252, R253). It saves nothing
else, changes no mode and redirects no control (R257); `clearError` is what undoes it (R258). -/
def raiseCoreError (e : CoreError) (s : State) : State := { s with status := s.status.recordError e }

/-- `ERR <- 0; ECODE <- 0` (R231, R258). -/
def clearError (s : State) : State := { s with status := s.status.clearError }

/-! ### Expansion and compression over the storage -/

/-- `W[16..63] <- Expand(W[0..15])[16..63]` (R164, R213), then `rest` with the schedule and the state. -/
def expandStorage (s : State) (rest : Vector Word 64 → State → Result) : Result :=
  match readMessage s with
  | .ok m => rest (expand m) { s with w := storeSchedule (expand m) s.w }
  | .error f => .fault f

/-- The 64 rounds over the schedule `W` and the fold into `H`; the block is then consumed (R187, R213). -/
def compressStorage (W : Vector Word 64) (s : State) : State :=
  { s with
    wr := written (compressFn s.h W).1
    h := (compressFn s.h W).2
    status := s.status.blockConsumed }

end Sys2Proof.Machine
end

