-- ==== Sys2Proof/Machine/Alu.lean ====
section
/-! DEFINITION. The word ALU commands ADD, XOR, ROTR, SHR (R140 to R143). -/

namespace Sys2Proof.Machine

/-- ADD: `RES <- (opa + opb) mod 2^32`, the carry out discarded (R140). -/
def execAdd (s : State) : Result := .next (writeRes (s.opa + s.opb) s)

/-- XOR: `RES <- opa ^ opb` (R141). -/
def execXor (s : State) : Result := .next (writeRes (s.opa ^^^ s.opb) s)

/-- ROTR: `RES <- rotr(opa, n)`, the amount taken mod 32 (R142; log 16). -/
def execRotr (n : Nat) (s : State) : Result := .next (writeRes (rotr s.opa n) s)

/-- SHR: `RES <- shr(opa, n)`, the amount not taken mod 32 (R143). -/
def execShr (n : Nat) (s : State) : Result := .next (writeRes (shr s.opa n) s)

end Sys2Proof.Machine
end

