-- ==== Sys2Proof/Machine/Chain.lean ====
section
/-! DEFINITION. The chaining state commands INIT, LDH, RDH, HASHBLK (R210 to R213). -/

namespace Sys2Proof.Machine

/-- INIT: `H[j] <- IV[j]` for j in 0..7 (R210). -/
def execInit (s : State) : Result := .next { s with h := ivRom }

/-- LDH: `H[j] <- opa` (R211). -/
def execLdh (j : Fin 8) (s : State) : Result := .next (writeH j s.opa s)

/-- RDH: `RES <- H[j]` (R212). -/
def execRdh (j : Fin 8) (s : State) : Result := .next (writeRes s.h[j] s)

/-- HASHBLK: `CoreError(3)` unless WVALID = 0xFFFF; else the expansion, the rounds and the fold in one command, SV
never seen as 1 (R213). -/
def execHashblk (s : State) : Result :=
  if s.status.messageComplete then expandStorage s fun S s' => .next (compressStorage S s')
  else .next (raiseCoreError .messageIncomplete s)

end Sys2Proof.Machine
end

