-- ==== Sys2Proof/Machine/Control.lean ====
section
/-! DEFINITION. The control commands NOP, CLRERR, RDSTAT (R230 to R232) and the illegal command (R106). -/

namespace Sys2Proof.Machine

/-- NOP: no state changes (R230). -/
def execNop (s : State) : Result := .next s

/-- CLRERR: `ERR <- 0; ECODE <- 0` (R231). -/
def execClrerr (s : State) : Result := .next (clearError s)

/-- RDSTAT: `RES <- STATUS` (R232). -/
def execRdstat (s : State) : Result := .next (writeRes s.statusWord s)

/-- A command word that decodes to no command: `raise CoreError(1)` (R106). -/
def execIllegal (s : State) : Result := .next (raiseCoreError .illegalCommand s)

end Sys2Proof.Machine
end

