-- ==== Sys2Proof/Machine/Mix.lean ====
section
/-! DEFINITION. The mixing commands CH, MAJ, USIG0, USIG1, LSIG0, LSIG1 (R180 to R183, R160, R161). -/

namespace Sys2Proof.Machine

/-- CH: `RES <- ch(opa, opb, opc)` (R180). -/
def execCh (s : State) : Result := .next (writeRes (ch s.opa s.opb s.opc) s)

/-- MAJ: `RES <- maj(opa, opb, opc)` (R181). -/
def execMaj (s : State) : Result := .next (writeRes (maj s.opa s.opb s.opc) s)

/-- USIG0: `RES <- usig0(opa)` (R182). -/
def execUsig0 (s : State) : Result := .next (writeRes (usig0 s.opa) s)

/-- USIG1: `RES <- usig1(opa)` (R183). -/
def execUsig1 (s : State) : Result := .next (writeRes (usig1 s.opa) s)

/-- LSIG0: `RES <- lsig0(opa)` (R160). -/
def execLsig0 (s : State) : Result := .next (writeRes (lsig0 s.opa) s)

/-- LSIG1: `RES <- lsig1(opa)` (R161). -/
def execLsig1 (s : State) : Result := .next (writeRes (lsig1 s.opa) s)

end Sys2Proof.Machine
end

