-- ==== Sys2Proof/Machine/Round.lean ====
section
/-! DEFINITION. The round engine commands RDK, RDA, COMPRESS (R184, R185, R187). -/

namespace Sys2Proof.Machine

/-- RDK: `RES <- K[i]` (R184). -/
def execRdk (i : Fin 64) (s : State) : Result := .next (writeRes kRom[i] s)

/-- RDA: `RES <- WR[j]`; where WR[j] holds `⊥` the unspecified word is a free value, and the read leaves its mark (R32, R36,
R185; log 17). -/
def execRda (j : Fin 8) (s : State) : Result := .next (writeRes (readWr j s) (noteRead (.wr j) s.wr[j] s))

/-- COMPRESS: `CoreError(2)` if SV = 0; else the 64 rounds over W, the fold into H, and the block is consumed
(R187). -/
def execCompress (s : State) : Result :=
  if s.status.sv then
    match readSchedule s with
    | .ok W => .next (compressStorage W s)
    | .error f => .fault f
  else .next (raiseCoreError .scheduleNotValid s)

end Sys2Proof.Machine
end

