-- ==== Sys2Proof/Machine/Sched.lean ====
section
/-! DEFINITION. The message schedule commands LDW, RDW, EXPAND (R162 to R164). -/

namespace Sys2Proof.Machine

/-- LDW: `W[i] <- opa; WVALID[i] <- 1; SV <- 0` (R162). -/
def execLdw (i : Fin 16) (s : State) : Result := .next (loadMessageWord i s.opa s)

/-- RDW: `RES <- W[i]`, or the model fault where W[i] holds `⊥` (R163). -/
def execRdw (i : Fin 64) (s : State) : Result := finishRead (readW i s) s

/-- The end of EXPAND: `SV <- 1` (R164). -/
def markScheduleMade (s : State) : State := { s with status := s.status.scheduleMade }

/-- EXPAND: `CoreError(3)` unless WVALID = 0xFFFF; else the expansion and `SV <- 1` (R164). -/
def execExpand (s : State) : Result :=
  if s.status.messageComplete then expandStorage s fun _ s' => .next (markScheduleMade s')
  else .next (raiseCoreError .messageIncomplete s)

end Sys2Proof.Machine
end

