-- ==== Sys2Proof/Machine/Dispatch.lean ====
section
/-! DEFINITION. The meaning of every command: one arm per constructor of Instr, one direct call an arm. -/

namespace Sys2Proof.Machine

def exec (i : Instr) (s : State) : Host.Outcome State Fault Refusal :=
  match i with
  -- CTRL
  | .nop => Sys2Proof.Machine.execNop s
  | .clrerr => Sys2Proof.Machine.execClrerr s
  | .rdstat => Sys2Proof.Machine.execRdstat s
  -- ALU
  | .add => Sys2Proof.Machine.execAdd s
  | .xor => Sys2Proof.Machine.execXor s
  | .rotr n => Sys2Proof.Machine.execRotr n s
  | .shr n => Sys2Proof.Machine.execShr n s
  -- MIX
  | .ch => Sys2Proof.Machine.execCh s
  | .maj => Sys2Proof.Machine.execMaj s
  | .usig0 => Sys2Proof.Machine.execUsig0 s
  | .usig1 => Sys2Proof.Machine.execUsig1 s
  | .lsig0 => Sys2Proof.Machine.execLsig0 s
  | .lsig1 => Sys2Proof.Machine.execLsig1 s
  -- SCHED
  | .ldw k => Sys2Proof.Machine.execLdw k s
  | .rdw k => Sys2Proof.Machine.execRdw k s
  | .expand => Sys2Proof.Machine.execExpand s
  -- ROUND
  | .rdk k => Sys2Proof.Machine.execRdk k s
  | .rda j => Sys2Proof.Machine.execRda j s
  | .compress => Sys2Proof.Machine.execCompress s
  -- CHAIN
  | .init => Sys2Proof.Machine.execInit s
  | .ldh j => Sys2Proof.Machine.execLdh j s
  | .rdh j => Sys2Proof.Machine.execRdh j s
  | .hashblk => Sys2Proof.Machine.execHashblk s

end Sys2Proof.Machine
end

