-- ==== Sys2Proof/Machine/Sequencer.lean ====
section
/-! DEFINITION. The sequencer: the sub-steps of the multi-cycle commands (R49, R166, R188). `step` uses them only in
states that are in the middle of a command, which a run of `step` from an idle state never meets (R39, R49). -/

namespace Sys2Proof.Machine

/-- `r`, then `k` from its next state; a fault or a refusal ends the run. -/
def andThen {σ τ : Type} (r : Host.Outcome σ Fault Refusal) (k : σ → Host.Outcome τ Fault Refusal) :
    Host.Outcome τ Fault Refusal :=
  match r with
  | .next s => k s
  | .fault f => .fault f
  | .refused x => .refused x

/-- Which commands are multi-cycle (R38, R287, R294). -/
def multiCycleOp : Instr → Option SeqOp
  | .expand => some .expand
  | .compress => some .compress
  | .hashblk => some .hashblk
  | .nop | .clrerr | .rdstat | .add | .xor | .rotr _ | .shr _ | .ch | .maj | .usig0 | .usig1 | .lsig0 | .lsig1
  | .ldw _ | .rdw _ | .rdk _ | .rda _ | .init | .ldh _ | .rdh _ => none

/-- The sequencing check a multi-cycle command makes in its accept cycle (R164, R187, R213). -/
def sequencingCheck (o : SeqOp) (s : State) : Bool :=
  match o with
  | .expand => s.status.messageComplete
  | .compress => s.status.sv
  | .hashblk => s.status.messageComplete

/-- The first phase of a multi-cycle command (R166, R188, R294). -/
def firstPhase : SeqOp → Phase
  | .expand => .exp 16
  | .compress => .load
  | .hashblk => .exp 16

/-- The accept cycle of a multi-cycle command whose check passed: the sequencer starts (R39, R166, R188). -/
def beginOp (o : SeqOp) (s : State) : State := { s with phase := firstPhase o, op := some o }

/-- What a command does in its accept cycle, at the level of sub-steps: a multi-cycle command that passes its check
starts the sequencer; every other command, and one that raises an error, completes (R166, R188, R253, R287). -/
def startCommand (i : Instr) (s : State) : Result :=
  match multiCycleOp i with
  | none => exec i s
  | some o => if sequencingCheck o s then .next (beginOp o s) else exec i s

/-- The command is complete: phase returns to IDLE (R166, R188). -/
def finishOp (s : State) : State := { s with phase := .idle, op := none }

/-- The schedule word of EXP(t), from the four words it reads (R165, R166). -/
def readScheduleWord (t : Fin 64) (s : State) : Except Fault Word := do
  return scheduleWord (← readW (t - 2) s) (← readW (t - 7) s) (← readW (t - 15) s) (← readW (t - 16) s)

/-- After EXP(63): EXPAND sets SV and is complete (R166); HASHBLK goes on to LOAD, SV never seen as 1 (R213). Without an `op` it ends
as EXPAND does (log 14). -/
def afterExpansion (s : State) : State :=
  match s.op with
  | some .hashblk => { s with phase := .load }
  | some .expand | some .compress | none => finishOp (markScheduleMade s)

/-- EXP(t): write W[t], then EXP(t+1), or the end of the expansion after t = 63 (R166). -/
def subStepExp (t : Fin 64) (s : State) : Result :=
  match readScheduleWord t s with
  | .ok v =>
    let s' := { s with w := s.w.set t (some v) }
    .next (if t = 63 then afterExpansion s' else { s' with phase := .exp (t + 1) })
  | .error f => .fault f

/-- LOAD: `WR[j] <- H[j]`, then RND(0) (R188). -/
def subStepLoad (s : State) : Result := .next { s with wr := written s.h, phase := .rnd 0 }

/-- RND(r): `WR <- Round(WR, K[r], W[r])`, then RND(r+1), or FOLD after r = 63 (R188). -/
def subStepRnd (r : Fin 64) (s : State) : Result :=
  match readW r s with
  | .ok v =>
    .next { s with
      wr := written (roundFn (readWorking s) kRom[r] v)
      phase := if r = 63 then .fold else .rnd (r + 1) }
  | .error f => .fault f

/-- FOLD: `H[j] <- H[j] + WR[j]`, the block is consumed, and phase returns to IDLE (R188). -/
def subStepFold (s : State) : Result :=
  .next (finishOp { s with h := foldState s.h (readWorking s), status := s.status.blockConsumed })

/-- One busy cycle of the sequencer (R49, R166, R188). -/
def subStep (s : State) : Result :=
  match s.phase with
  | .idle => .next s
  | .exp t => subStepExp t s
  | .load => subStepLoad s
  | .rnd r => subStepRnd r s
  | .fold => subStepFold s

end Sys2Proof.Machine
end

