-- ==== Sys2Proof/Machine/Interface.lean ====
section
/-! DEFINITION. The interface of the Core: its output pins, the handshake, reset, and one rising clock edge (R280,
R285 to R289). -/

namespace Sys2Proof.Machine

/-- `cmd_ready = rst_n and not STATUS.BUSY` (R287). -/
def cmdReady (rstN : Bool) (s : State) : Bool := rstN && !s.busy

/-- The output pins (R285). -/
structure Outputs where
  cmdReady : Bool
  res : Word
  resValid : Bool
  busy : Bool
  err : Bool
deriving DecidableEq, Repr

/-- What the Core drives on its output pins while it is in state `s` and the Host drives `rst_n` (R285, R287): `res_valid`
is the pulse of R288, and 0 while `rst_n = 0` (U19; log 18). -/
def outputs (rstN : Bool) (s : State) : Outputs where
  cmdReady := cmdReady rstN s
  res := s.res
  resValid := rstN && s.resValid
  busy := s.busy
  err := s.status.err

/-- A rising edge with `rst_n = 0`: the reset state, whatever the Core was doing (R280, R281). The Host's drive is no
state of the Core and goes on (log 13); what W and WR held is kept as what the flops may still hold (R36, R281; log 2), and
the mark of a model fault is never cleared (R12; log 17). -/
def enterReset (s : State) : State :=
  { State.reset with host := s.host, erased := ⟨s.w, s.wr⟩ :: s.erased, modelFault := s.modelFault }

/-- The Core accepts a command: `cmd_valid = 1`, `cmd_ready = 1` and `rst_n = 1` (R286). -/
def accepts (p : Pins) (s : State) : Bool := p.rstN && p.cmdValid && cmdReady p.rstN s

/-- An edge at which no result command completes leaves `res_valid = 0` (R288). -/
def endPulse (s : State) : State := { s with resValid := false }

/-- The accepting edge samples `cmd`, `opa`, `opb`, `opc` (R286). -/
def sample (tx : Transaction) (s : State) : State := { endPulse s with tx := tx }

/-- The sampled command word is decoded and run; an illegal one raises CoreError(1) (R105, R106, R254). -/
def runSampled (run : Instr → State → Result) (s : State) : Result :=
  match decode s.tx.cmd with
  | some i => run i s
  | none => execIllegal s

/-- One rising edge of `clk`: reset, an accepted command, a busy cycle, or nothing (R280, R286, R287, R289). `run` says
what an accepted command does at its accept edge, `work` what the sequencer does at an edge that accepts nothing. -/
def clockEdge (run : Instr → State → Result) (work : State → Result) (p : Pins) (s : State) : Result :=
  if p.rstN = false then .next (enterReset s)
  else if accepts p s then runSampled run (sample p.tx s)
  else work (endPulse s)

/-- An edge of the transaction-level machine: an accepted command has its whole effect (R9). -/
def transactEdge (p : Pins) (s : State) : Result := clockEdge exec subStep p s

/-- An edge of the cycle-level machine: a multi-cycle command only starts at its accept edge, and goes through one phase
a cycle (R39, R166, R188), which is the nominal timing of R294 (log 6). -/
def cycleEdge (p : Pins) (s : State) : Result := clockEdge startCommand subStep p s

/-- The cycle-level machine over a list of edges. -/
def cycleRun : List Pins → State → Result
  | [], s => .next s
  | p :: ps, s => andThen (cycleEdge p s) (cycleRun ps)

/-- The Host presents a transaction (R286). -/
def Pins.present (tx : Transaction) : Pins := ⟨true, true, tx⟩

/-- The Host presents nothing: `rst_n = 1`, `cmd_valid = 0`; the other pins are not sampled (R286, U6). -/
def Pins.quiet : Pins := ⟨true, false, Transaction.zero⟩

/-- The Host holds `rst_n = 0` (R280). -/
def Pins.reset : Pins := ⟨false, false, Transaction.zero⟩

/-- The drive of the coming edge, and the state with the rest of the Host's drive; after its list the Host presents
nothing (log 1). -/
def takeDrive (s : State) : Pins × State :=
  match s.host with
  | [] => (Pins.quiet, s)
  | p :: rest => (p, { s with host := rest })

/-- The Host presents a command word with operand words of zeros at the coming edge, before what it drives later, and
the Core is ready to accept it (log 8). -/
def presentWord (c : CmdWord) (s : State) : State :=
  { finishOp s with host := Pins.present { Transaction.zero with cmd := c } :: s.host }

end Sys2Proof.Machine
end

