-- ==== Sys2Proof/Machine/Step.lean ====
section
/-! DEFINITION. One step of the machine: one rising clock edge at the transaction level (R9). -/

namespace Sys2Proof.Machine

/-- One step: the coming edge of the Host's drive, at the transaction level (R9, R286). -/
def step (s : State) : Host.Outcome State Fault Refusal :=
  transactEdge (takeDrive s).1 (takeDrive s).2

/-- `s` with the table row's word presented at the next edge, so that the next step runs it (log 8). -/
def State.withFetchWord (s : State) (nbits w : Nat) : State := presentWord (tableWord nbits w) s

end Sys2Proof.Machine
end

