-- ==== Sys2Proof/Machine/Hardware.lean ====
section
/-! DEFINITION. What the hardware does where the model stops: an RDW of an entry that holds `⊥` returns an unspecified word,
and the machine goes on (R36, R163). The spec's machine is `exec` and `step`, which fault there (R12, R260). -/

namespace Sys2Proof.Machine

/-- The word in the flops of W[i]: the one that a command wrote, or a free value (R36; log 2). -/
def flopsW (i : Fin 64) (s : State) : Word := s.w[i].getD (Config.leftInW s.erased i)

/-- RDW in hardware: `RES <- W[i]`, an unspecified word where no command has written W[i] (R163). -/
def hardwareRdw (i : Fin 64) (s : State) : Result := .next (writeRes (flopsW i s) s)

/-- A command in hardware: of those that the model stops, only RDW can read an entry without a value (R36). -/
def hardwareExec (i : Instr) (s : State) : Result :=
  match i with
  | .rdw k => hardwareRdw k s
  | .nop | .clrerr | .rdstat | .add | .xor | .rotr _ | .shr _ | .ch | .maj | .usig0 | .usig1 | .lsig0 | .lsig1
  | .ldw _ | .expand | .rdk _ | .rda _ | .compress | .init | .ldh _ | .rdh _ | .hashblk => exec i s

/-- An edge of the hardware at the transaction level. -/
def hardwareEdge (p : Pins) (s : State) : Result := clockEdge hardwareExec subStep p s

end Sys2Proof.Machine
end

