-- ==== Sys2Proof/Machine/Program.lean ====
section
/-! DEFINITION. Lines of CORE-1 assembly as data, the transactions they stand for, and the pseudo-instructions (R101,
R108, R110). -/

namespace Sys2Proof.Machine

/-- One line of assembly: a command and its operand words (R108). -/
structure Line where
  instr : Instr
  opa : Word
  opb : Word
  opc : Word
deriving DecidableEq, Repr

/-- A line without operand words. -/
def Line.plain (i : Instr) : Line := ⟨i, 0, 0, 0⟩

/-- A line with one operand word. -/
def Line.word (i : Instr) (v : Word) : Line := ⟨i, v, 0, 0⟩

/-- The transaction a line assembles to: unused operand buses are driven with 0 (R108). -/
def Line.transaction (l : Line) : Transaction :=
  let ops := driveUsed l.instr l.opa l.opb l.opc
  ⟨encode l.instr, ops.1, ops.2.1, ops.2.2⟩

/-- The pins that present a line (R286). -/
def Line.pins (l : Line) : Pins := Pins.present l.transaction

/-- The pseudo-instructions of R110. -/
inductive Pseudo where
  | ldblk (m : Vector Word 16)
  | block (m : Vector Word 16)
  | seth (h : Vector Word 8)
  | rddigest
  | setres (v : Word)
  | rotl (x : Word) (n : Nat)
  | chkerr
deriving DecidableEq, Repr

/-- `LDW 0, m0; ...; LDW 15, m15` (R110). -/
def loadBlockLines (m : Vector Word 16) : List Line := (List.finRange 16).map fun i => Line.word (.ldw i) m[i]

/-- `RDH 0; ...; RDH 7` (R110). -/
def readDigestLines : List Line := (List.finRange 8).map fun j => Line.plain (.rdh j)

/-- The expansion of a pseudo-instruction (R110). -/
def expandPseudo : Pseudo → List Line
  | .ldblk m => loadBlockLines m
  | .block m => loadBlockLines m ++ [Line.plain .hashblk]
  | .seth h => (List.finRange 8).map fun j => Line.word (.ldh j) h[j]
  | .rddigest => readDigestLines
  | .setres v => [⟨.xor, v, 0, 0⟩]
  | .rotl x n => [Line.word (.rotr ((32 - n % 32) % 32)) x]
  | .chkerr => [Line.plain .rdstat]

/-- The Host's drive that presents lines one after another (R81, R286). -/
def driveOf (ls : List Line) : List Pins := ls.map Line.pins

end Sys2Proof.Machine
end

