-- ==== Sys2Proof/Machine/HostDuty.lean ====
section
/-! DEFINITION. The duties of the Host that the spec gives in full: word construction, padding, block words, the
protocol of a message, and the digest (R76 to R80, R214, R259, R283). They are no part of the Core (R6). -/

namespace Sys2Proof.Machine

/-- The source's errors, all of them the Host's (R259). -/
inductive HostError where
  | rangeError
  | emptyValueError
  | inputTooLargeError
deriving DecidableEq, Repr

/-! ### Word construction (R259, D26) -/

/-- A Word from an integer: RangeError outside [0, 2^32 - 1] (R259). -/
def wordOfInt (z : Int) : Except HostError Word :=
  if 0 ≤ z ∧ z < 2 ^ 32 then .ok (BitVec.ofInt 32 z) else .error .rangeError

/-- The path that also accepts negative integers: n + 2^32 for -2^31 <= n < 0, else RangeError (spec/90_conflicts.md
C9). -/
def wordOfSigned (z : Int) : Except HostError Word :=
  if -2 ^ 31 ≤ z ∧ z < 0 then .ok (BitVec.ofInt 32 (z + 2 ^ 32)) else wordOfInt z

/-- The value of a bit sequence, most significant bit first (R10). -/
def bitsValue (bs : List Bool) : Nat := bs.foldl (fun v b => 2 * v + b.toNat) 0

/-- A Word from a bit sequence: EmptyValueError on zero bits; a longer one is rejected when a discarded leading bit is
set, never truncated silently (R259, D26; that the rejection is RangeError is log 9). -/
def wordOfBits (bs : List Bool) : Except HostError Word :=
  if bs = [] then .error .emptyValueError
  else if bitsValue bs < 2 ^ 32 then .ok (BitVec.ofNat 32 (bitsValue bs)) else .error .rangeError

/-! ### Padding and blocks (R78 to R80) -/

/-- The zero bytes that padding appends after 0x80, for a message of n bytes: `(55 - n) mod 64` (R78). -/
def zeroPadBytes (n : Nat) : Nat := (119 - n % 64) % 64

/-- The 64-bit big-endian encoding of L (R78). -/
def lengthBytes (L : Nat) : List Byte := (List.range 8).map fun k => BitVec.ofNat 8 (L / 2 ^ (8 * (7 - k)))

/-- The padded message: 0x80, zero bytes, the length in bits; InputTooLargeError for 2^64 bits or more (R78, R79). -/
def padMessage (m : List Byte) : Except HostError (List Byte) :=
  if 2 ^ 64 ≤ 8 * m.length then .error .inputTooLargeError
  else .ok (m ++ 0x80 :: List.replicate (zeroPadBytes m.length) 0 ++ lengthBytes (8 * m.length))

/-- `{b0, b1, b2, b3}`: four bytes, big-endian (R76). -/
def wordOfBytes (b0 b1 b2 b3 : Byte) : Word := b0 ++ b1 ++ b2 ++ b3

/-- Message words M[0..15] of a block whose bytes are `B[0..63]` (R76). -/
def blockWords (B : List Byte) : Vector Word 16 :=
  Vector.ofFn fun i =>
    wordOfBytes (B.getD (4 * i.val) 0) (B.getD (4 * i.val + 1) 0) (B.getD (4 * i.val + 2) 0) (B.getD (4 * i.val + 3) 0)

/-- The consecutive blocks of a padded message, in original order (R80). -/
def blocksOf (padded : List Byte) : List (Vector Word 16) :=
  (List.range (padded.length / 64)).map fun n => blockWords (padded.drop (64 * n))

/-! ### The digest (R77) -/

/-- A word's four bytes, big-endian (R76, R77). -/
def bytesOfWord (w : Word) : List Byte := (List.range 4).map fun k => w.extractLsb' (8 * (3 - k)) 8

/-- The digest bytes of a chaining state: H[0] to H[7] in order, each big-endian, 32 bytes (R77). -/
def digestBytes (h : Vector Word 8) : List Byte := h.toList.flatMap bytesOfWord

/-- Nibble value v is the character `"0123456789abcdef"[v]` (R77, D33). -/
def hexChar (v : BitVec 4) : Char :=
  ['0', '1', '2', '3', '4', '5', '6', '7', '8', '9', 'a', 'b', 'c', 'd', 'e', 'f'].getD v.toNat '0'

/-- `toHex(w)`: 8 lowercase hexadecimal characters, most significant nibble first (R77). -/
def toHex (w : Word) : List Char := (List.range 8).map fun k => hexChar (w.extractLsb' (4 * (7 - k)) 4)

/-- The digest string of a chaining state: 64 characters, H[0] first (R77). -/
def digestText (h : Vector Word 8) : List Char := h.toList.flatMap toHex

/-- The chaining state after one block: expansion, then compression (R80, R214). -/
def hashBlock (h : Vector Word 8) (m : Vector Word 16) : Vector Word 8 := (compressFn h (expand m)).2

/-- The chaining state after the blocks of a message, from IV (R80, R214). -/
def hashBlocks (ms : List (Vector Word 16)) : Vector Word 8 := ms.foldl hashBlock ivRom

/-- The digest words of a byte message (R78 to R80, R214). -/
def sha256 (m : List Byte) : Except HostError (Vector Word 8) := (padMessage m).map fun p => hashBlocks (blocksOf p)

/-- The digest words of a text, under the environment's byte mapping (D32). -/
def sha256Text (t : List Char) : Except HostError (Vector Word 8) := sha256 (Config.encodeText t)

/-! ### The protocol (R214, R283) -/

/-- How the Host hashes a loaded block: HASHBLK, or EXPAND then COMPRESS (R80, R214). -/
inductive BlockMode where
  | combined
  | separate
deriving DecidableEq, Repr

/-- The lines that hash one block: LDW x 16, then HASHBLK, or EXPAND and COMPRESS (R214). -/
def blockLines (mode : BlockMode) (m : Vector Word 16) : List Line :=
  loadBlockLines m ++
    match mode with
    | .combined => [Line.plain .hashblk]
    | .separate => [Line.plain .expand, Line.plain .compress]

/-- The lines that hash the blocks of one message: INIT, then every block in order (R214). -/
def messageLines (mode : BlockMode) (ms : List (Vector Word 16)) : List Line :=
  Line.plain .init :: ms.flatMap (blockLines mode)

/-- The whole protocol of a byte message: its blocks, then RDH x 8 (R214, R283). -/
def protocolLines (mode : BlockMode) (m : List Byte) : Except HostError (List Line) :=
  (padMessage m).map fun p => messageLines mode (blocksOf p) ++ readDigestLines

end Sys2Proof.Machine
end

