-- ==== Sys2Proof/Machine/Timing.lean ====
section
/-! DEFINITION. The cycle-level machine with the latencies as parameters (R7, R294, D20, U10). A command's sub-steps are
those of R166 and R188 whatever the latencies; only how many of them fall into one cycle differs (R296). -/

namespace Sys2Proof.Machine

/-- The busy cycles of an accepted command: a multi-cycle command that passes its sequencing check has its latency;
every other and every errored one completes in its accept cycle, the one that LAT_SIMPLE counts (R253, R287, R294). -/
def busyCycles (lat : Latencies) (i : Instr) (s : State) : Nat :=
  match multiCycleOp i with
  | none => lat.simple - 1
  | some o =>
    if sequencingCheck o s then
      match o with
      | .expand => lat.expand
      | .compress => lat.compress
      | .hashblk => lat.hashblk
    else lat.simple - 1

/-- The sub-steps up to the end of the command in progress (R166, R188, R213). -/
def subStepsLeft (s : State) : Nat :=
  match s.phase with
  | .idle => 0
  | .exp t => (64 - t.val) + if s.op = some .hashblk then 66 else 0
  | .load => 66
  | .rnd r => 65 - r.val
  | .fold => 1

/-- `n` sub-steps, one after another. -/
def subSteps : Nat → State → Result
  | 0, s => .next s
  | n + 1, s => andThen (subStep s) (subSteps n)

/-- The cycle-level machine with a clock: the Core, and the busy cycles that its command in progress still takes. -/
structure Timed where
  core : State
  left : Nat
deriving DecidableEq, Repr

/-- What the sequencer does in a busy cycle when `left` cycles are left, this one included: the fewest sub-steps that
leave no more than one for every later cycle. DESIGN CHOICE: the spec leaves open which sub-steps share a cycle, and the
Host cannot see it (R296; log 6). -/
def pacedWork (left : Nat) (s : State) : Result := subSteps (subStepsLeft s - (left - 1)) s

/-- The busy cycles left after an edge (R294). -/
def countdown (lat : Latencies) (p : Pins) (m : Timed) : Nat :=
  if p.rstN = false then 0
  else if accepts p m.core then
    match decode p.tx.cmd with
    | some i => busyCycles lat i m.core
    | none => lat.simple - 1
  else m.left - 1

/-- One edge of the machine with latencies `lat` (R280, R286, R287, R294). -/
def timedEdge (lat : Latencies) (p : Pins) (m : Timed) : Host.Outcome Timed Fault Refusal :=
  andThen (clockEdge startCommand (pacedWork m.left) p m.core) fun s => .next ⟨s, countdown lat p m⟩

/-- The machine with latencies `lat` over a list of edges. -/
def timedRun (lat : Latencies) : List Pins → Timed → Host.Outcome Timed Fault Refusal
  | [], m => .next m
  | p :: ps, m => andThen (timedEdge lat p m) (timedRun lat ps)

end Sys2Proof.Machine
end

