-- ==== Sys2Proof/Safety.lean ====
section
/-! DEFINITION. What claims are stated in: the invariant of the states between commands, a safe run, and what two states
share. -/

namespace Sys2Proof.Machine

/-- `S` is the expansion of the message words `m`, entry by entry (R165). -/
def IsExpansion (m : Vector Word 16) (S : Vector Word 64) : Prop :=
  (∀ t (h : t < 16), S[t] = m[t]) ∧
    ∀ t (_ : 16 ≤ t) (h : t < 64), S[t] = lsig1 S[t - 2] + S[t - 7] + lsig0 S[t - 15] + S[t - 16]

/-- `out` is what 64 rounds make of `hin` over the schedule `W`: the states after each round form a sequence (R186,
R187). -/
def IsRounds (hin : Vector Word 8) (W : Vector Word 64) (out : Vector Word 8) : Prop :=
  ∃ st : Nat → Vector Word 8, st 0 = hin ∧ (∀ r (h : r < 64), st (r + 1) = roundFn (st r) kRom[r] W[r]) ∧ st 64 = out

/-- `s` with an error of code `c` recorded: ERR and ECODE change only where ERR was 0, nothing else changes (R252,
R253). -/
def withErrorCode (c : BitVec 4) (s : State) : State :=
  { s with status := if s.status.err = true then s.status else { s.status with err := true, ecode := c } }

/-- A file whose entries from `lo` on all hold `⊥`, or all hold a word. -/
def uniform {n : Nat} (lo : Nat) (v : Vector (Option Word) n) : Prop :=
  (∀ i : Fin n, lo ≤ i.val → v[i] = none) ∨ (∀ i : Fin n, lo ≤ i.val → v[i].isSome = true)

/-- `W[16..63]` is the expansion of the current `W[0..15]`: every entry from 16 on is the recurrence of R165 over
earlier entries (R38). -/
def scheduleExpanded (w : Vector (Option Word) 64) : Prop :=
  ∀ t (_ : 16 ≤ t) (h : t < 64), ∃ s2 s7 s15 s16 : Word,
    w[t - 2] = some s2 ∧ w[t - 7] = some s7 ∧ w[t - 15] = some s15 ∧ w[t - 16] = some s16 ∧
      w[t] = some (scheduleWord s2 s7 s15 s16)

/-- The invariant of every state between commands. -/
structure State.Inv (s : State) : Prop where
  /-- The sequencer is idle (R49): BUSY = 0 between commands (R39). -/
  idle : s.phase = .idle ∧ s.op = none
  /-- `SV = 1` implies `WVALID = 0xFFFF` (R45, invariant 1). -/
  complete : s.status.sv = true → s.status.wvalid = 0xFFFF#16
  /-- `WVALID[i] = 1` implies that W[i] holds a word (R45, invariant 2). -/
  loaded : ∀ i : Fin 16, s.status.wvalid.getLsbD i = true → s.w[i.val].isSome = true
  /-- `SV = 1`: W[16..63] is the expansion of the current W[0..15] (R38, R42). -/
  expanded : s.status.sv = true → scheduleExpanded s.w
  /-- When ERR = 0, ECODE = 0; when ERR = 1, ECODE is one of 1, 2, 3 (R41, R251). -/
  code : (s.status.err = false → s.status.ecode = 0) ∧
    (s.status.err = true → s.status.ecode = 1 ∨ s.status.ecode = 2 ∨ s.status.ecode = 3)
  /-- W[16..63] are written together, by an expansion (R34). -/
  derived : uniform 16 s.w
  /-- WR[0..7] are written together, by a compression (R32). -/
  working : uniform 0 s.wr

/-- A run that meets no model fault and no refusal: `k` steps answer a state, which carries no mark of an RDA of `⊥`. -/
def safeFor (k : Nat) (s : State) : Prop := ∃ t : State, Sys2Proof.core.run k s = .next t ∧ t.modelFault = none

/-- `s` and `t` differ at most in the operand words of `tx` that the command `i` does not use. -/
def agreeOnUsed (i : Instr) (s t : State) : Prop :=
  { t with tx := s.tx } = s ∧ t.tx.cmd = s.tx.cmd ∧ (usesOpa i = true → t.opa = s.opa) ∧
    (usesOpb i = true → t.opb = s.opb) ∧ (usesOpc i = true → t.opc = s.opc)

end Sys2Proof.Machine
end

