-- ==== Sys2Proof/Certificates/Slice0/Obligations.lean ====
section
/-! DEFINITION. The statements about the model, from the numbered rules of the spec. -/

open Sys2Proof Sys2Proof.Machine

/-! ### Encoding (R100 to R107) -/

/-- Decoding the word of a well-formed command gives the command back, with every operand value (R104, R105). -/
def Obligations.DecodeOfEncodeIsIdentity : Prop :=
  ∀ i : Instr, i.wellFormed = true → decode (encode i) = some i

/-- A word that decodes is the word of the command it decodes to, and that command is well-formed (R104, R105). -/
def Obligations.DecodedWordIsItsEncoding : Prop :=
  ∀ (c : CmdWord) (i : Instr), decode c = some i → i.wellFormed = true ∧ encode i = c

/-- "No two rows match the same word" (R104). -/
def Obligations.NoTwoRowsMatchOneWord : Prop :=
  ∀ c : CmdWord, (commandTable.filter (rowMatches c)).length ≤ 1

/-- Exactly 695 command words are legal; the other 64841 of the 65536 are illegal (the count of R106). -/
def Obligations.ExactlySixHundredNinetyFiveLegalWords : Prop :=
  ∃ l : List CmdWord, l.Nodup ∧ l.length = 695 ∧ ∀ c, c ∈ l ↔ (decode c).isSome = true

/-- Which words are legal, by CLASS, FN and IMM8 (the map of R103 with the must-be-zero bits of R102). -/
def Obligations.LegalWordsByClassAndFunction : Prop :=
  ∀ c : CmdWord, (decode c).isSome = true ↔
    (classField c = 0 ∧ fnField c ≤ 2 ∧ immField c = 0) ∨
    (classField c = 1 ∧ (fnField c ≤ 1 ∧ immField c = 0 ∨ fnField c = 2 ∨ fnField c = 3)) ∨
    (classField c = 2 ∧ fnField c ≤ 5 ∧ immField c = 0) ∨
    (classField c = 3 ∧
      (fnField c = 0 ∧ immField c < 16 ∨ fnField c = 1 ∧ immField c < 64 ∨ fnField c = 2 ∧ immField c = 0)) ∨
    (classField c = 4 ∧
      (fnField c = 0 ∧ immField c < 64 ∨ fnField c = 1 ∧ immField c < 8 ∨ fnField c = 2 ∧ immField c = 0)) ∨
    (classField c = 5 ∧
      ((fnField c = 0 ∨ fnField c = 3) ∧ immField c = 0 ∨ (fnField c = 1 ∨ fnField c = 2) ∧ immField c < 8))

/-- A word of every class, written out from the patterns of R104, and two illegal ones. -/
def Obligations.WordsOfEveryClassDecode : Prop :=
  decode 0b0000001000000000#16 = some .rdstat ∧ decode 0b0001001000001101#16 = some (.rotr 13) ∧
    decode 0b0010000100000000#16 = some .maj ∧ decode 0b0011000100111111#16 = some (.rdw 63) ∧
    decode 0b0100000100000101#16 = some (.rda 5) ∧ decode 0b0101000100000011#16 = some (.ldh 3) ∧
    decode 0b0011000000010000#16 = none ∧ decode 0b0110000000000000#16 = none

/-! ### The word ALU (R140 to R144) -/

/-- R140: ADD writes the sum mod 2^32 to RES and changes nothing else. -/
def Obligations.AddWritesModularSum : Prop :=
  (∀ c, decode c = some .add ↔ c = 0x1000#16) ∧
    ∀ s : State, ∃ v : Word, exec .add s = .next { s with res := v, resValid := true } ∧
      v.toNat = (s.opa.toNat + s.opb.toNat) % 2 ^ 32

/-- R141: XOR writes the bitwise exclusive or to RES and changes nothing else. -/
def Obligations.XorWritesBitwiseExclusiveOr : Prop :=
  (∀ c, decode c = some .xor ↔ c = 0x1100#16) ∧
    ∀ s : State, ∃ v : Word, exec .xor s = .next { s with res := v, resValid := true } ∧
      ∀ k < 32, v.getLsbD k = (s.opa.getLsbD k ^^ s.opb.getLsbD k)

/-- R142: ROTR writes `RES[k] = opa[(k + n mod 32) mod 32]` for every amount n in 0..255, and changes nothing else. -/
def Obligations.RotrRotatesEveryBit : Prop :=
  (∀ c n, decode c = some (.rotr n) ↔ n < 256 ∧ c = 0x1200#16 ||| BitVec.ofNat 16 n) ∧
    ∀ (s : State) (n : Nat), n < 256 → ∃ v : Word, exec (.rotr n) s = .next { s with res := v, resValid := true } ∧
      ∀ k < 32, v.getLsbD k = s.opa.getLsbD ((k + n % 32) % 32)

/-- R143: SHR writes `RES[k] = opa[k + n]` where `k + n <= 31`, else 0, for every amount n in 0..255, and changes nothing
else. -/
def Obligations.ShrShiftsEveryBit : Prop :=
  (∀ c n, decode c = some (.shr n) ↔ n < 256 ∧ c = 0x1300#16 ||| BitVec.ofNat 16 n) ∧
    ∀ (s : State) (n : Nat), n < 256 → ∃ v : Word, exec (.shr n) s = .next { s with res := v, resValid := true } ∧
      ∀ k < 32, v.getLsbD k = if k + n ≤ 31 then s.opa.getLsbD (k + n) else false

/-- R144: the ten laws of the word operations. -/
def Obligations.WordOperationLaws : Prop :=
  ∀ (x y z : Word) (n p q : Nat),
    x ^^^ x = 0 ∧ x + 0 = x ∧ rotr x 32 = x ∧ rotr x n = rotr x (n % 32) ∧ shr x 32 = 0 ∧
      (x + y = y + x ∧ x + y + z = x + (y + z)) ∧
      (x ^^^ y = y ^^^ x ∧ x ^^^ y ^^^ z = x ^^^ (y ^^^ z) ∧ x ^^^ 0 = x) ∧
      rotr (rotr x p) q = rotr x (p + q) ∧ (32 ≤ n → shr x n = 0) ∧
      (n ≤ 31 → shr x n = rotr x n &&& (0xFFFFFFFF#32 >>> n))

/-! ### The mixing functions (R160, R161, R180 to R183) -/

/-- R180: CH selects in each bit between opb and opc by opa, and changes nothing else. -/
def Obligations.ChSelectsEveryBit : Prop :=
  (∀ c, decode c = some .ch ↔ c = 0x2000#16) ∧
    ∀ s : State, ∃ v : Word, exec .ch s = .next { s with res := v, resValid := true } ∧
      ∀ k < 32, v.getLsbD k = if s.opa.getLsbD k = true then s.opb.getLsbD k else s.opc.getLsbD k

/-- R181: MAJ is 1 in each bit where at least two operands are, and changes nothing else. -/
def Obligations.MajVotesEveryBit : Prop :=
  (∀ c, decode c = some .maj ↔ c = 0x2100#16) ∧
    ∀ s : State, ∃ v : Word, exec .maj s = .next { s with res := v, resValid := true } ∧
      ∀ k < 32, (v.getLsbD k = true ↔
        2 ≤ (s.opa.getLsbD k).toNat + (s.opb.getLsbD k).toNat + (s.opc.getLsbD k).toNat)

/-- R182 and R183: USIG0 and USIG1, bit by bit; nothing else changes. -/
def Obligations.UpperSigmasXorThreeRotations : Prop :=
  (∀ c, decode c = some .usig0 ↔ c = 0x2200#16) ∧ (∀ c, decode c = some .usig1 ↔ c = 0x2300#16) ∧
    ∀ s : State, ∃ v0 v1 : Word,
      exec .usig0 s = .next { s with res := v0, resValid := true } ∧
      exec .usig1 s = .next { s with res := v1, resValid := true } ∧
      ∀ k < 32,
        v0.getLsbD k = (s.opa.getLsbD ((k + 2) % 32) ^^ s.opa.getLsbD ((k + 13) % 32) ^^
          s.opa.getLsbD ((k + 22) % 32)) ∧
        v1.getLsbD k = (s.opa.getLsbD ((k + 6) % 32) ^^ s.opa.getLsbD ((k + 11) % 32) ^^
          s.opa.getLsbD ((k + 25) % 32))

/-- R160 and R161: LSIG0 and LSIG1, bit by bit; nothing else changes; both are linear over XOR. -/
def Obligations.LowerSigmasXorTwoRotationsAndShift : Prop :=
  (∀ c, decode c = some .lsig0 ↔ c = 0x2400#16) ∧ (∀ c, decode c = some .lsig1 ↔ c = 0x2500#16) ∧
    (∀ x y : Word, lsig0 (x ^^^ y) = lsig0 x ^^^ lsig0 y ∧ lsig1 (x ^^^ y) = lsig1 x ^^^ lsig1 y) ∧
    ∀ s : State, ∃ v0 v1 : Word,
      exec .lsig0 s = .next { s with res := v0, resValid := true } ∧
      exec .lsig1 s = .next { s with res := v1, resValid := true } ∧
      ∀ k < 32,
        v0.getLsbD k = (s.opa.getLsbD ((k + 7) % 32) ^^ s.opa.getLsbD ((k + 18) % 32) ^^
          (if k + 3 ≤ 31 then s.opa.getLsbD (k + 3) else false)) ∧
        v1.getLsbD k = (s.opa.getLsbD ((k + 17) % 32) ^^ s.opa.getLsbD ((k + 19) % 32) ^^
          (if k + 10 ≤ 31 then s.opa.getLsbD (k + 10) else false))

/-! ### The message schedule (R162 to R165) -/

/-- R162: LDW writes W[i], sets WVALID[i], clears SV, and changes nothing else; its other IMM8 values are illegal. -/
def Obligations.LdwLoadsOneMessageWord : Prop :=
  (∀ c i, decode c = some (.ldw i) ↔ c = 0x3000#16 ||| BitVec.ofNat 16 i.val) ∧
    (∀ c : CmdWord, c &&& 0xFF00#16 = 0x3000#16 → c &&& 0x00F0#16 ≠ 0 → decode c = none) ∧
    ∀ (s : State) (i : Fin 16), ∃ t : State, exec (.ldw i) s = .next t ∧
      t = { s with w := t.w, status := { s.status with sv := false, wvalid := t.status.wvalid } } ∧
      (∀ k : Fin 64, t.w[k] = if k.val = i.val then some s.opa else s.w[k]) ∧
      ∀ k < 16, t.status.wvalid.getLsbD k = if k = i.val then true else s.status.wvalid.getLsbD k

/-- R163: RDW of a written entry writes its word to RES and changes nothing else; of an unwritten entry it is the
model fault; its other IMM8 values are illegal. -/
def Obligations.RdwReadsWordOrFaults : Prop :=
  (∀ c i, decode c = some (.rdw i) ↔ c = 0x3100#16 ||| BitVec.ofNat 16 i.val) ∧
    (∀ c : CmdWord, c &&& 0xFF00#16 = 0x3100#16 → c &&& 0x00C0#16 ≠ 0 → decode c = none) ∧
    ∀ (s : State) (i : Fin 64),
      (∀ v, s.w[i] = some v → exec (.rdw i) s = .next { s with res := v, resValid := true }) ∧
      (s.w[i] = none → exec (.rdw i) s = .fault (.unwrittenRead (.w i)))

/-- R165: Expand copies the message words and follows the recurrence above them; nothing else does. -/
def Obligations.ExpandFollowsRecurrence : Prop :=
  ∀ m : Vector Word 16, IsExpansion m (expand m) ∧ ∀ S, IsExpansion m S → S = expand m

/-- R164: EXPAND raises CoreError(3) unless WVALID = 0xFFFF; else it writes W[16..63], sets SV, and changes nothing
else. -/
def Obligations.ExpandCommandFillsSchedule : Prop :=
  (∀ c, decode c = some .expand ↔ c = 0x3200#16) ∧
    (∀ s : State, s.status.wvalid ≠ 0xFFFF#16 → exec .expand s = .next (withErrorCode 3 s)) ∧
    ∀ (s : State) (m : Vector Word 16), s.status.wvalid = 0xFFFF#16 → (∀ i : Fin 16, s.w[i.val] = some m[i]) →
      ∃ (S : Vector Word 64) (t : State), IsExpansion m S ∧ exec .expand s = .next t ∧
        t = { s with w := t.w, status := { s.status with sv := true } } ∧
        ∀ k : Fin 64, t.w[k] = if k.val < 16 then s.w[k] else some S[k]

/-! ### The round engine (R46, R184 to R187) -/

/-- R46: K[i] is the first 32 bits of the fractional part of the cube root of the (i+1)-th prime. -/
def Obligations.RoundConstantsAreCubeRoots : Prop :=
  ∀ i : Fin 64, ∃ q : Nat, q ^ 3 ≤ Nat.nth Nat.Prime i.val * 2 ^ 96 ∧
    Nat.nth Nat.Prime i.val * 2 ^ 96 < (q + 1) ^ 3 ∧ kRom[i] = BitVec.ofNat 32 q

/-- R47: IV[j] is the first 32 bits of the fractional part of the square root of the (j+1)-th prime. -/
def Obligations.InitConstantsAreSquareRoots : Prop :=
  ∀ j : Fin 8, ∃ q : Nat, q ^ 2 ≤ Nat.nth Nat.Prime j.val * 2 ^ 64 ∧
    Nat.nth Nat.Prime j.val * 2 ^ 64 < (q + 1) ^ 2 ∧ ivRom[j] = BitVec.ofNat 32 q

/-- R184: RDK writes K[i] to RES and changes nothing else; its other IMM8 values are illegal. -/
def Obligations.RdkReadsRoundConstant : Prop :=
  (∀ c i, decode c = some (.rdk i) ↔ c = 0x4000#16 ||| BitVec.ofNat 16 i.val) ∧
    (∀ c : CmdWord, c &&& 0xFF00#16 = 0x4000#16 → c &&& 0x00C0#16 ≠ 0 → decode c = none) ∧
    ∀ (s : State) (i : Fin 64), exec (.rdk i) s = .next { s with res := kRom[i], resValid := true }

/-- R185: RDA of a written working register writes its word to RES and changes nothing else; of an unwritten one it writes
the unspecified word of the hardware, the free value of log 17, and leaves the mark of the model fault; its other IMM8
values are illegal. -/
def Obligations.RdaReadsWorkingRegister : Prop :=
  (∀ c j, decode c = some (.rda j) ↔ c = 0x4100#16 ||| BitVec.ofNat 16 j.val) ∧
    (∀ c : CmdWord, c &&& 0xFF00#16 = 0x4100#16 → c &&& 0x00F8#16 ≠ 0 → decode c = none) ∧
    ∀ (s : State) (j : Fin 8),
      (∀ v, s.wr[j] = some v → exec (.rda j) s = .next { s with res := v, resValid := true }) ∧
      (s.wr[j] = none → ∃ v : Word,
        exec (.rda j) s = .next { s with res := v, resValid := true, modelFault := s.modelFault.or (some (.wr j)) })

/-- R186: the eight outputs of a round, from the old values, with sums mod 2^32. -/
def Obligations.RoundShiftsWorkingWords : Prop :=
  ∀ (s : Vector Word 8) (k w : Word),
    let n := roundFn s k w
    let t1 := (usig1 s[4]).toNat + (ch s[4] s[5] s[6]).toNat + s[7].toNat + k.toNat + w.toNat
    let t2 := (usig0 s[0]).toNat + (maj s[0] s[1] s[2]).toNat
    n[0].toNat = (t1 + t2) % 2 ^ 32 ∧ n[1] = s[0] ∧ n[2] = s[1] ∧ n[3] = s[2] ∧
      n[4].toNat = (s[3].toNat + t1) % 2 ^ 32 ∧ n[5] = s[4] ∧ n[6] = s[5] ∧ n[7] = s[6]

/-- A round loses nothing: for every constant and schedule word it is a bijection of the working words (from R186). -/
def Obligations.RoundIsBijective : Prop :=
  ∀ k w : Word, Function.Bijective fun s : Vector Word 8 => roundFn s k w

/-- R187: COMPRESS raises CoreError(2) when SV = 0; else it runs 64 rounds over W from H, keeps their output in WR, adds
it into H, clears SV and WVALID, and changes nothing else. -/
def Obligations.CompressRunsRoundsAndFolds : Prop :=
  (∀ c, decode c = some .compress ↔ c = 0x4200#16) ∧
    (∀ s : State, s.status.sv = false → exec .compress s = .next (withErrorCode 2 s)) ∧
    ∀ (s : State) (W : Vector Word 64), s.status.sv = true → (∀ i : Fin 64, s.w[i] = some W[i]) →
      ∃ (out : Vector Word 8) (t : State), IsRounds s.h W out ∧ exec .compress s = .next t ∧
        t = { s with h := t.h, wr := t.wr, status := { s.status with sv := false, wvalid := 0 } } ∧
        ∀ j : Fin 8, t.wr[j] = some out[j] ∧ t.h[j] = s.h[j] + out[j]

/-! ### The chaining state (R210 to R213) -/

/-- R210: INIT loads IV into H and changes nothing else. -/
def Obligations.InitLoadsInitializationConstants : Prop :=
  (∀ c, decode c = some .init ↔ c = 0x5000#16) ∧ ∀ s : State, exec .init s = .next { s with h := ivRom }

/-- R211: LDH writes H[j] and changes nothing else; its other IMM8 values are illegal. -/
def Obligations.LdhWritesOneChainingWord : Prop :=
  (∀ c j, decode c = some (.ldh j) ↔ c = 0x5100#16 ||| BitVec.ofNat 16 j.val) ∧
    (∀ c : CmdWord, c &&& 0xFF00#16 = 0x5100#16 → c &&& 0x00F8#16 ≠ 0 → decode c = none) ∧
    ∀ (s : State) (j : Fin 8), ∃ t : State, exec (.ldh j) s = .next t ∧ t = { s with h := t.h } ∧
      ∀ k : Fin 8, t.h[k] = if k = j then s.opa else s.h[k]

/-- R212: RDH writes H[j] to RES and changes nothing else; its other IMM8 values are illegal. -/
def Obligations.RdhReadsOneChainingWord : Prop :=
  (∀ c j, decode c = some (.rdh j) ↔ c = 0x5200#16 ||| BitVec.ofNat 16 j.val) ∧
    (∀ c : CmdWord, c &&& 0xFF00#16 = 0x5200#16 → c &&& 0x00F8#16 ≠ 0 → decode c = none) ∧
    ∀ (s : State) (j : Fin 8), exec (.rdh j) s = .next { s with res := s.h[j], resValid := true }

/-- R213: HASHBLK raises CoreError(3) unless WVALID = 0xFFFF; else it expands, runs the rounds, folds, clears SV and
WVALID, and changes nothing else. -/
def Obligations.HashblkExpandsAndCompresses : Prop :=
  (∀ c, decode c = some .hashblk ↔ c = 0x5300#16) ∧
    (∀ s : State, s.status.wvalid ≠ 0xFFFF#16 → exec .hashblk s = .next (withErrorCode 3 s)) ∧
    ∀ (s : State) (m : Vector Word 16), s.status.wvalid = 0xFFFF#16 → (∀ i : Fin 16, s.w[i.val] = some m[i]) →
      ∃ (S : Vector Word 64) (out : Vector Word 8) (t : State), IsExpansion m S ∧ IsRounds s.h S out ∧
        exec .hashblk s = .next t ∧
        t = { s with h := t.h, wr := t.wr, w := t.w, status := { s.status with sv := false, wvalid := 0 } } ∧
        (∀ k : Fin 64, t.w[k] = if k.val < 16 then s.w[k] else some S[k]) ∧
        ∀ j : Fin 8, t.wr[j] = some out[j] ∧ t.h[j] = s.h[j] + out[j]

/-- R213, its derived sentence and its corner case: in every state between commands HASHBLK leaves what EXPAND followed
by COMPRESS leaves, and with SV = 1 what COMPRESS alone leaves. -/
def Obligations.HashblkEqualsExpandThenCompress : Prop :=
  ∀ s : State, s.Inv →
    (s.status.wvalid = 0xFFFF#16 → ∃ t, exec .expand s = .next t ∧ exec .hashblk s = exec .compress t) ∧
    (s.status.wvalid ≠ 0xFFFF#16 → exec .hashblk s = exec .expand s) ∧
    (s.status.sv = true → exec .hashblk s = exec .compress s)

/-! ### Control (R230 to R232) -/

/-- R230 and R231: NOP changes nothing, and 0x0001 to 0x00FF are illegal; CLRERR clears ERR and ECODE and changes
nothing else. -/
def Obligations.NopAndClrerrEffects : Prop :=
  (∀ c, decode c = some .nop ↔ c = 0x0000#16) ∧ (∀ c, decode c = some .clrerr ↔ c = 0x0100#16) ∧
    (∀ c : CmdWord, 0x0001#16 ≤ c → c ≤ 0x00FF#16 → decode c = none) ∧
    ∀ s : State, exec .nop s = .next s ∧
      exec .clrerr s = .next { s with status := { s.status with err := false, ecode := 0 } }

/-- R232 with the layout of R38: RDSTAT writes STATUS to RES, field by field, and changes nothing else. -/
def Obligations.RdstatReadsStatusLayout : Prop :=
  (∀ c, decode c = some .rdstat ↔ c = 0x0200#16) ∧
    ∀ s : State, ∃ v : Word, exec .rdstat s = .next { s with res := v, resValid := true } ∧
      v.getLsbD 0 = decide (s.phase ≠ .idle) ∧ v.getLsbD 1 = s.status.err ∧ v.getLsbD 2 = s.status.sv ∧
      v.getLsbD 3 = false ∧ (∀ k < 4, v.getLsbD (4 + k) = s.status.ecode.getLsbD k) ∧
      (∀ k < 8, v.getLsbD (8 + k) = false) ∧ ∀ k < 16, v.getLsbD (16 + k) = s.status.wvalid.getLsbD k

/-! ### Errors (R40, R41, R106, R251 to R254) -/

/-- An illegal word, accepted, raises CoreError(1) and changes nothing else (the effect R106 gives; R252). -/
def Obligations.IllegalWordRaisesCodeOne : Prop :=
  ∀ (s : State) (p : Pins) (rest : List Pins), s.host = p :: rest → s.phase = .idle → p.rstN = true →
    p.cmdValid = true → decode p.tx.cmd = none →
    step s = .next (withErrorCode 1 { s with host := rest, tx := p.tx, resValid := false })

/-- The commands that can raise an error, and the code each records (the table of R251). -/
def Obligations.OnlySequencingChecksRaiseErrors : Prop :=
  ∀ (i : Instr) (s t : State), exec i s = .next t → s.status.err = false → t.status.err = true →
    t = withErrorCode t.status.ecode s ∧
      ((i = .compress ∧ s.status.sv = false ∧ t.status.ecode = 2) ∨
        ((i = .expand ∨ i = .hashblk) ∧ s.status.wvalid ≠ 0xFFFF#16 ∧ t.status.ecode = 3))

/-- While ERR = 1 every command but CLRERR keeps ERR and ECODE, and an accepted illegal word does too (R40, R41,
R252). -/
def Obligations.FirstErrorCodeIsKept : Prop :=
  (∀ (i : Instr) (s t : State), exec i s = .next t → s.status.err = true → i ≠ .clrerr →
    t.status.err = true ∧ t.status.ecode = s.status.ecode) ∧
    ∀ (e : CoreError) (s : State), s.status.err = true → raiseCoreError e s = s

/-! ### Whole-machine rules (R30 to R37, R42, R43, R101) -/

/-- Which commands write which storage: every command leaves every other file as it was (the table of R30, R31, R32,
R34, R37). -/
def Obligations.OnlyNamedCommandsWriteStorage : Prop :=
  ∀ (i : Instr) (s t : State), exec i s = .next t →
    (t.h ≠ s.h → i = .init ∨ (∃ j, i = .ldh j) ∨ i = .compress ∨ i = .hashblk) ∧
    (t.wr ≠ s.wr → i = .compress ∨ i = .hashblk) ∧
    (∀ k : Fin 64, t.w[k] ≠ s.w[k] →
      (∃ j : Fin 16, i = .ldw j ∧ j.val = k.val) ∨ (16 ≤ k.val ∧ (i = .expand ∨ i = .hashblk))) ∧
    (t.res ≠ s.res → writesRes i = true) ∧
    (t.modelFault ≠ s.modelFault → ∃ j, i = .rda j ∧ s.wr[j] = none) ∧
    (t.phase = s.phase ∧ t.op = s.op ∧ t.tx = s.tx ∧ t.host = s.host ∧ t.erased = s.erased)

/-- R75: a read changes RES and `res_valid` only (and the model's own mark of log 17), and repeating a read, an LDW or an
LDH changes nothing more: the read returns the same word, that of a register that no command has written too. -/
def Obligations.RepeatedCommandChangesNothingMore : Prop :=
  (∀ (i : Instr) (s t : State),
    (i = .rdstat ∨ (∃ k, i = .rdk k) ∨ (∃ k, i = .rdw k) ∨ (∃ j, i = .rda j) ∨ ∃ j, i = .rdh j) →
    exec i s = .next t → t = { s with res := t.res, resValid := true, modelFault := t.modelFault } ∧
      exec i t = .next t) ∧
    ∀ (i : Instr) (s t : State), ((∃ k, i = .ldw k) ∨ ∃ j, i = .ldh j) → exec i s = .next t → exec i t = .next t

/-- Which commands change SV, WVALID, ERR and ECODE, each way (R40 to R43, R251). -/
def Obligations.OnlyNamedCommandsChangeStatus : Prop :=
  ∀ (i : Instr) (s t : State), exec i s = .next t →
    (s.status.sv = false → t.status.sv = true → i = .expand) ∧
    (s.status.sv = true → t.status.sv = false → (∃ j, i = .ldw j) ∨ i = .compress ∨ i = .hashblk) ∧
    (∀ k < 16, s.status.wvalid.getLsbD k = false → t.status.wvalid.getLsbD k = true →
      ∃ j : Fin 16, i = .ldw j ∧ j.val = k) ∧
    (∀ k < 16, s.status.wvalid.getLsbD k = true → t.status.wvalid.getLsbD k = false →
      (i = .compress ∨ i = .hashblk) ∧ t.status.wvalid = 0) ∧
    (s.status.err = true → t.status.err = false → i = .clrerr) ∧
    (s.status.err = false → t.status.err = true → i = .compress ∨ i = .expand ∨ i = .hashblk) ∧
    (t.status.ecode ≠ s.status.ecode → i = .clrerr ∨ i = .compress ∨ i = .expand ∨ i = .hashblk)

/-- An operand bus a command does not use has no effect: states that differ only there answer alike (R101). -/
def Obligations.UnusedOperandsHaveNoEffect : Prop :=
  ∀ (i : Instr) (s t : State), agreeOnUsed i s t →
    (∀ s', exec i s = .next s' → exec i t = .next { s' with tx := t.tx }) ∧
    (∀ f, exec i s = .fault f → exec i t = .fault f)

/-! ### Step, reset and interface (R50, R280 to R288) -/

/-- A step on an accepted word that decodes runs the command on the sampled transaction (R286). -/
def Obligations.StepRunsDecodedCommand : Prop :=
  ∀ (s : State) (p : Pins) (rest : List Pins) (i : Instr), s.host = p :: rest → s.phase = .idle → p.rstN = true →
    p.cmdValid = true → decode p.tx.cmd = some i →
    step s = exec i { s with host := rest, tx := p.tx, resValid := false }

/-- An edge at which the Host presents nothing, or its list is at its end (log 1), only ends the pulse of `res_valid`
(R266, R286, R288). -/
def Obligations.StepWithoutCommandKeepsState : Prop :=
  (∀ s : State, s.host = [] → s.phase = .idle → step s = .next { s with resValid := false }) ∧
    ∀ (s : State) (p : Pins) (rest : List Pins), s.host = p :: rest → s.phase = .idle → p.rstN = true →
      p.cmdValid = false → step s = .next { s with host := rest, resValid := false }

/-- R281 with the values of R50: an edge with `rst_n = 0`, in the middle of a command too, gives the reset state. The mark
of a model fault is never cleared (R12; log 17). -/
def Obligations.ResetAbandonsAnyCommand : Prop :=
  ∀ (s : State) (p : Pins), p.rstN = false → cmdReady p.rstN s = false ∧ ∃ t : State, cycleEdge p s = .next t ∧
    transactEdge p s = .next t ∧
    t.h = #v[0x6a09e667, 0xbb67ae85, 0x3c6ef372, 0xa54ff53a, 0x510e527f, 0x9b05688c, 0x1f83d9ab, 0x5be0cd19] ∧
    (∀ j : Fin 8, t.wr[j] = none) ∧ (∀ k : Fin 64, t.w[k] = none) ∧ t.res = 0 ∧ t.statusWord = 0 ∧
    t.phase = .idle ∧ t.resValid = false ∧ t.modelFault = s.modelFault

/-- What the pins carry at an edge that accepts nothing has no effect, at the cycle level and at the transaction level
(R286). -/
def Obligations.IgnoredPinsHaveNoEffect : Prop :=
  ∀ (s : State) (p q : Pins), p.rstN = true → q.rstN = true → accepts p s = false → accepts q s = false →
    cycleEdge p s = cycleEdge q s ∧ transactEdge p s = transactEdge q s

/-- R288, at the transaction level and at the cycle level: `res_valid` is 1 after an edge exactly when that edge completed
a result command; every other edge keeps RES, but for a reset, which clears it (R37).
The pin shows that value, and 0 while `rst_n = 0` (U19; log 18). -/
def Obligations.ResultPulsesForOneCycle : Prop :=
  (∀ (rstN : Bool) (s : State), (outputs rstN s).resValid = true ↔ rstN = true ∧ s.resValid = true) ∧
  ∀ edge : Pins → State → Result, edge = transactEdge ∨ edge = cycleEdge →
    (∀ (s t : State) (p : Pins) (i : Instr), s.phase = .idle → p.rstN = true → p.cmdValid = true →
      decode p.tx.cmd = some i → edge p s = .next t →
        t.resValid = writesRes i ∧ (writesRes i = false → t.res = s.res)) ∧
    (∀ (s t : State) (p : Pins), s.phase = .idle → p.rstN = true → p.cmdValid = true → decode p.tx.cmd = none →
      edge p s = .next t → t.resValid = false ∧ t.res = s.res) ∧
    (∀ (s t : State) (p : Pins), p.rstN = true → accepts p s = false → edge p s = .next t →
      t.resValid = false ∧ t.res = s.res) ∧
    ∀ (s t : State) (p : Pins), p.rstN = false → edge p s = .next t → t.resValid = false ∧ t.res = 0

/-! ### The invariant between commands (R38, R39, R41, R45, R49) -/

/-- The invariant holds right after reset. -/
def Obligations.InvariantHoldsAtReset : Prop := State.reset.Inv

/-- Every step keeps the invariant: SV = 1 implies WVALID = 0xFFFF and that W[16..63] is the expansion of W[0..15],
WVALID[i] = 1 implies W[i] written, ECODE legal, BUSY = 0 (R38, R39, R41, R45). -/
def Obligations.EveryStepKeepsInvariant : Prop :=
  ∀ s t : State, s.Inv → step s = .next t → t.Inv

/-- From the states of the invariant a step never refuses, and its only fault is the read of a schedule entry that holds no
value by an accepted RDW (R163). That RDW is the only one is the model's choice of log 17: R36 and R185 make an RDA of an
entry that holds no value the model fault too, and there this model goes on and leaves a mark. A fault ends the run for good
(R12, R260), which is how every `Host.Core` runs. -/
def Obligations.StepFaultsOnlyOnUnwrittenRead : Prop :=
  (∀ s : State, s.Inv → (∀ r, step s ≠ .refused r) ∧
    ∀ f, step s = .fault f ↔ ∃ (p : Pins) (rest : List Pins) (i : Fin 64), s.host = p :: rest ∧ p.rstN = true ∧
      p.cmdValid = true ∧ decode p.tx.cmd = some (.rdw i) ∧ s.w[i] = none ∧ f = .unwrittenRead (.w i)) ∧
    ∀ (j k : Nat) (s : State) (f : Fault), Sys2Proof.core.run j s = .fault f → Sys2Proof.core.run (j + k) s = .fault f

/-- Where the model answers a next state the hardware does too, and the same; where the model faults, the hardware goes on
and returns some word, of which nothing is said (R36, R163; log 2). -/
def Obligations.HardwareReturnsSomeWordWhereModelFaults : Prop :=
  ∀ (s : State) (p : Pins), s.Inv →
    (∀ t, transactEdge p s = .next t → hardwareEdge p s = .next t) ∧
    ∀ f, transactEdge p s = .fault f → ∃ v : Word,
      hardwareEdge p s = .next { s with tx := p.tx, res := v, resValid := true }

/-! ### The cycle-level refinement (R39, R166, R188, R294) -/

/-- The sub-steps of R166 and R188 give the state of the atomic command: whatever the Host drives while the Core is
busy, after the nominal busy cycles the machine of one phase a cycle is where the transaction-level edge goes. That this
machine takes the nominal latencies is the model's choice (log 6). -/
def Obligations.SubStepsRefineAtomicCommand : Prop :=
  ∀ (s : State) (p : Pins) (i : Instr) (ps : List Pins), s.Inv → p.rstN = true → p.cmdValid = true →
    decode p.tx.cmd = some i → ps.length = busyCycles .nominal i s → (∀ q ∈ ps, q.rstN = true) →
    cycleRun (p :: ps) s = transactEdge p s

/-- With the nominal latencies, which are the model's choice of log 6: BUSY is 1, and `cmd_ready` 0, in every cycle after
the accept edge of a multi-cycle command up to the one that writes its last effect; then it is 0 (R39, R287, R294). -/
def Obligations.BusyUntilLastEffect : Prop :=
  ∀ (s : State) (p : Pins) (i : Instr) (ps : List Pins), s.Inv → p.rstN = true → p.cmdValid = true →
    decode p.tx.cmd = some i → multiCycleOp i ≠ none → (∀ q ∈ ps, q.rstN = true) →
    ps.length ≤ busyCycles .nominal i s →
    ∃ t, cycleRun (p :: ps) s = .next t ∧ t.busy = decide (ps.length < busyCycles .nominal i s) ∧
      cmdReady true t = decide (ps.length = busyCycles .nominal i s) ∧ t.res = s.res

/-- "No rule of the model depends on" the timing: with any latencies the spec allows, after the busy cycles of an accepted
command the machine is where the transaction-level edge goes, whatever the Host drives meanwhile (R7, R166, R188, R294,
R296). -/
def Obligations.EveryLatencyRefinesAtomicCommand : Prop :=
  ∀ (lat : Latencies) (s : State) (p : Pins) (i : Instr) (ps : List Pins), lat.legal → s.Inv → p.rstN = true →
    p.cmdValid = true → decode p.tx.cmd = some i → ps.length = busyCycles lat i s → (∀ q ∈ ps, q.rstN = true) →
    timedRun lat (p :: ps) ⟨s, 0⟩ = andThen (transactEdge p s) fun t => .next ⟨t, 0⟩

/-- With any latencies the spec allows, BUSY is 1, and `cmd_ready` 0, for exactly the latency of an accepted multi-cycle
command, and RES is kept (R39, R287, R288, R294). -/
def Obligations.BusyForTheLatency : Prop :=
  ∀ (lat : Latencies) (s : State) (p : Pins) (i : Instr) (ps : List Pins), lat.legal → s.Inv → p.rstN = true →
    p.cmdValid = true → decode p.tx.cmd = some i → multiCycleOp i ≠ none → (∀ q ∈ ps, q.rstN = true) →
    ps.length ≤ busyCycles lat i s →
    ∃ m, timedRun lat (p :: ps) ⟨s, 0⟩ = .next m ∧ m.core.busy = decide (ps.length < busyCycles lat i s) ∧
      cmdReady true m.core = decide (ps.length = busyCycles lat i s) ∧ m.core.res = s.res

/-- The nominal latencies are the timing of one phase a cycle: on every list of edges, resets among them, the two machines
agree (R166, R188, R294). -/
def Obligations.NominalLatenciesTakeOnePhaseACycle : Prop :=
  ∀ (ps : List Pins) (s : State), s.phase = .idle →
    andThen (timedRun .nominal ps ⟨s, 0⟩) (fun m => .next m.core) = cycleRun ps s

/-! ### The duties of the Host (R76 to R80, R110, R214) -/

/-- R76: a message word is its four bytes, the first one most significant. -/
def Obligations.MessageWordsAreBigEndian : Prop :=
  ∀ (B : List Byte) (i : Fin 16), B.length = 64 →
    (blockWords B)[i].toNat = (B.getD (4 * i.val) 0).toNat * 2 ^ 24 + (B.getD (4 * i.val + 1) 0).toNat * 2 ^ 16 +
      (B.getD (4 * i.val + 2) 0).toNat * 2 ^ 8 + (B.getD (4 * i.val + 3) 0).toNat

/-- R77: the digest bytes are H[0] to H[7] in order, each word big-endian: 32 bytes. -/
def Obligations.DigestBytesAreBigEndian : Prop :=
  ∀ h : Vector Word 8, (digestBytes h).length = 32 ∧
    ∀ j : Fin 8, h[j].toNat = ((digestBytes h).getD (4 * j.val) 0).toNat * 2 ^ 24 +
      ((digestBytes h).getD (4 * j.val + 1) 0).toNat * 2 ^ 16 +
      ((digestBytes h).getD (4 * j.val + 2) 0).toNat * 2 ^ 8 + ((digestBytes h).getD (4 * j.val + 3) 0).toNat

/-- R77: a digest string has 64 characters, character 8j + k the lowercase hexadecimal digit of nibble 7 - k of H[j], so
H[0] and the nibble of bits 31:28 come first; different chaining states have different strings. -/
def Obligations.DigestTextIsFaithful : Prop :=
  (∀ h : Vector Word 8, (digestText h).length = 64 ∧
    ∀ j k : Fin 8, (digestText h)[8 * j.val + k.val]? =
      ['0', '1', '2', '3', '4', '5', '6', '7', '8', '9', 'a', 'b', 'c', 'd', 'e', 'f'][
        h[j].toNat / 16 ^ (7 - k.val) % 16]?) ∧
    ∀ h h' : Vector Word 8, digestText h = digestText h' → h = h'

/-- R78 and R79: a message of L < 2^64 bits is followed by one 1 bit, the fewest zero bits that make 448 mod 512, and
L in 64 bits big-endian; a longer one is InputTooLargeError. -/
def Obligations.PaddingFillsWholeBlocks : Prop :=
  ∀ m : List Byte,
    (2 ^ 64 ≤ 8 * m.length → padMessage m = .error .inputTooLargeError) ∧
    (8 * m.length < 2 ^ 64 → ∃ (z : Nat) (len : List Byte),
      padMessage m = .ok (m ++ [0x80] ++ List.replicate z 0 ++ len) ∧
      (8 * m.length + 1 + (7 + 8 * z)) % 512 = 448 ∧ 7 + 8 * z ≤ 511 ∧ len.length = 8 ∧
      len.foldl (fun v b => 256 * v + b.toNat) 0 = 8 * m.length ∧
      ∃ n, 0 < n ∧ (m ++ [0x80] ++ List.replicate z 0 ++ len).length = 64 * n)

/-- R214: presenting INIT and then, for every block of a message, its sixteen LDW and HASHBLK, or EXPAND and COMPRESS,
leaves in H the compression chained over the blocks from IV, with no error recorded and RES untouched. -/
def Obligations.ProtocolChainsBlocks : Prop :=
  ∀ (mode : BlockMode) (ms : List (Vector Word 16)) (rest : List Pins) (s : State), s.Inv →
    s.host = driveOf (messageLines mode ms) ++ rest →
    ∃ t : State, Sys2Proof.core.run (messageLines mode ms).length s = .next t ∧ t.Inv ∧ t.host = rest ∧
      t.h = hashBlocks ms ∧ t.status.err = s.status.err ∧ t.res = s.res

/-- R110: ROTL rotates left, and SETRES puts its word in RES. -/
def Obligations.PseudoRotlAndSetres : Prop :=
  ∀ (s : State) (x : Word) (n : Nat),
    (∃ (l : Line) (v : Word), expandPseudo (.rotl x n) = [l] ∧ decode l.transaction.cmd = some l.instr ∧
      exec l.instr (sample l.transaction s) = .next (writeRes v (sample l.transaction s)) ∧
      ∀ k < 32, v.getLsbD ((k + n) % 32) = x.getLsbD k) ∧
    ∃ l : Line, expandPseudo (.setres x) = [l] ∧ decode l.transaction.cmd = some l.instr ∧
      exec l.instr (sample l.transaction s) = .next (writeRes x (sample l.transaction s))
end

