-- ==== Sys2Proof/Laws/State.lean ====
section
/-! SUPPORT. What every update of State and of STATUS leaves in every field: one lemma a field and update. -/

namespace Sys2Proof.Machine

/-! ### noteRead -/

@[simp] theorem noteRead_h (loc : Loc) (v : Option Word) (s : State) : (noteRead loc v s).h = s.h := rfl
@[simp] theorem noteRead_wr (loc : Loc) (v : Option Word) (s : State) : (noteRead loc v s).wr = s.wr := rfl
@[simp] theorem noteRead_w (loc : Loc) (v : Option Word) (s : State) : (noteRead loc v s).w = s.w := rfl
@[simp] theorem noteRead_res (loc : Loc) (v : Option Word) (s : State) : (noteRead loc v s).res = s.res := rfl
@[simp] theorem noteRead_status (loc : Loc) (v : Option Word) (s : State) : (noteRead loc v s).status = s.status := rfl
@[simp] theorem noteRead_phase (loc : Loc) (v : Option Word) (s : State) : (noteRead loc v s).phase = s.phase := rfl
@[simp] theorem noteRead_op (loc : Loc) (v : Option Word) (s : State) : (noteRead loc v s).op = s.op := rfl
@[simp] theorem noteRead_resValid (loc : Loc) (v : Option Word) (s : State) : (noteRead loc v s).resValid = s.resValid := rfl
@[simp] theorem noteRead_tx (loc : Loc) (v : Option Word) (s : State) : (noteRead loc v s).tx = s.tx := rfl
@[simp] theorem noteRead_host (loc : Loc) (v : Option Word) (s : State) : (noteRead loc v s).host = s.host := rfl
@[simp] theorem noteRead_erased (loc : Loc) (v : Option Word) (s : State) : (noteRead loc v s).erased = s.erased := rfl
@[simp] theorem noteRead_modelFault (loc : Loc) (v : Option Word) (s : State) :
    (noteRead loc v s).modelFault = if v.isNone then s.modelFault.or (some loc) else s.modelFault := rfl

/-! ### writeRes -/

@[simp] theorem writeRes_h (v : Word) (s : State) : (writeRes v s).h = s.h := rfl
@[simp] theorem writeRes_wr (v : Word) (s : State) : (writeRes v s).wr = s.wr := rfl
@[simp] theorem writeRes_w (v : Word) (s : State) : (writeRes v s).w = s.w := rfl
@[simp] theorem writeRes_res (v : Word) (s : State) : (writeRes v s).res = v := rfl
@[simp] theorem writeRes_status (v : Word) (s : State) : (writeRes v s).status = s.status := rfl
@[simp] theorem writeRes_phase (v : Word) (s : State) : (writeRes v s).phase = s.phase := rfl
@[simp] theorem writeRes_op (v : Word) (s : State) : (writeRes v s).op = s.op := rfl
@[simp] theorem writeRes_resValid (v : Word) (s : State) : (writeRes v s).resValid = true := rfl
@[simp] theorem writeRes_tx (v : Word) (s : State) : (writeRes v s).tx = s.tx := rfl
@[simp] theorem writeRes_host (v : Word) (s : State) : (writeRes v s).host = s.host := rfl
@[simp] theorem writeRes_erased (v : Word) (s : State) : (writeRes v s).erased = s.erased := rfl
@[simp] theorem writeRes_modelFault (v : Word) (s : State) : (writeRes v s).modelFault = s.modelFault := rfl

/-! ### writeH -/

@[simp] theorem writeH_h (j : Fin 8) (v : Word) (s : State) : (writeH j v s).h = s.h.set j v := rfl
@[simp] theorem writeH_wr (j : Fin 8) (v : Word) (s : State) : (writeH j v s).wr = s.wr := rfl
@[simp] theorem writeH_w (j : Fin 8) (v : Word) (s : State) : (writeH j v s).w = s.w := rfl
@[simp] theorem writeH_res (j : Fin 8) (v : Word) (s : State) : (writeH j v s).res = s.res := rfl
@[simp] theorem writeH_status (j : Fin 8) (v : Word) (s : State) : (writeH j v s).status = s.status := rfl
@[simp] theorem writeH_phase (j : Fin 8) (v : Word) (s : State) : (writeH j v s).phase = s.phase := rfl
@[simp] theorem writeH_op (j : Fin 8) (v : Word) (s : State) : (writeH j v s).op = s.op := rfl
@[simp] theorem writeH_resValid (j : Fin 8) (v : Word) (s : State) : (writeH j v s).resValid = s.resValid := rfl
@[simp] theorem writeH_tx (j : Fin 8) (v : Word) (s : State) : (writeH j v s).tx = s.tx := rfl
@[simp] theorem writeH_host (j : Fin 8) (v : Word) (s : State) : (writeH j v s).host = s.host := rfl
@[simp] theorem writeH_erased (j : Fin 8) (v : Word) (s : State) : (writeH j v s).erased = s.erased := rfl
@[simp] theorem writeH_modelFault (j : Fin 8) (v : Word) (s : State) : (writeH j v s).modelFault = s.modelFault := rfl

/-! ### loadMessageWord -/

@[simp] theorem loadMessageWord_h (i : Fin 16) (v : Word) (s : State) : (loadMessageWord i v s).h = s.h := rfl
@[simp] theorem loadMessageWord_wr (i : Fin 16) (v : Word) (s : State) : (loadMessageWord i v s).wr = s.wr := rfl
@[simp] theorem loadMessageWord_w (i : Fin 16) (v : Word) (s : State) : (loadMessageWord i v s).w = s.w.set (i.castLE (by decide) : Fin 64) (some v) := rfl
@[simp] theorem loadMessageWord_res (i : Fin 16) (v : Word) (s : State) : (loadMessageWord i v s).res = s.res := rfl
@[simp] theorem loadMessageWord_status (i : Fin 16) (v : Word) (s : State) : (loadMessageWord i v s).status = s.status.messageWordLoaded i := rfl
@[simp] theorem loadMessageWord_phase (i : Fin 16) (v : Word) (s : State) : (loadMessageWord i v s).phase = s.phase := rfl
@[simp] theorem loadMessageWord_op (i : Fin 16) (v : Word) (s : State) : (loadMessageWord i v s).op = s.op := rfl
@[simp] theorem loadMessageWord_resValid (i : Fin 16) (v : Word) (s : State) : (loadMessageWord i v s).resValid = s.resValid := rfl
@[simp] theorem loadMessageWord_tx (i : Fin 16) (v : Word) (s : State) : (loadMessageWord i v s).tx = s.tx := rfl
@[simp] theorem loadMessageWord_host (i : Fin 16) (v : Word) (s : State) : (loadMessageWord i v s).host = s.host := rfl
@[simp] theorem loadMessageWord_erased (i : Fin 16) (v : Word) (s : State) : (loadMessageWord i v s).erased = s.erased := rfl
@[simp] theorem loadMessageWord_modelFault (i : Fin 16) (v : Word) (s : State) : (loadMessageWord i v s).modelFault = s.modelFault := rfl

/-! ### raiseCoreError -/

@[simp] theorem raiseCoreError_h (e : CoreError) (s : State) : (raiseCoreError e s).h = s.h := rfl
@[simp] theorem raiseCoreError_wr (e : CoreError) (s : State) : (raiseCoreError e s).wr = s.wr := rfl
@[simp] theorem raiseCoreError_w (e : CoreError) (s : State) : (raiseCoreError e s).w = s.w := rfl
@[simp] theorem raiseCoreError_res (e : CoreError) (s : State) : (raiseCoreError e s).res = s.res := rfl
@[simp] theorem raiseCoreError_status (e : CoreError) (s : State) : (raiseCoreError e s).status = s.status.recordError e := rfl
@[simp] theorem raiseCoreError_phase (e : CoreError) (s : State) : (raiseCoreError e s).phase = s.phase := rfl
@[simp] theorem raiseCoreError_op (e : CoreError) (s : State) : (raiseCoreError e s).op = s.op := rfl
@[simp] theorem raiseCoreError_resValid (e : CoreError) (s : State) : (raiseCoreError e s).resValid = s.resValid := rfl
@[simp] theorem raiseCoreError_tx (e : CoreError) (s : State) : (raiseCoreError e s).tx = s.tx := rfl
@[simp] theorem raiseCoreError_host (e : CoreError) (s : State) : (raiseCoreError e s).host = s.host := rfl
@[simp] theorem raiseCoreError_erased (e : CoreError) (s : State) : (raiseCoreError e s).erased = s.erased := rfl
@[simp] theorem raiseCoreError_modelFault (e : CoreError) (s : State) : (raiseCoreError e s).modelFault = s.modelFault := rfl

/-! ### clearError -/

@[simp] theorem clearError_h (s : State) : (clearError s).h = s.h := rfl
@[simp] theorem clearError_wr (s : State) : (clearError s).wr = s.wr := rfl
@[simp] theorem clearError_w (s : State) : (clearError s).w = s.w := rfl
@[simp] theorem clearError_res (s : State) : (clearError s).res = s.res := rfl
@[simp] theorem clearError_status (s : State) : (clearError s).status = s.status.clearError := rfl
@[simp] theorem clearError_phase (s : State) : (clearError s).phase = s.phase := rfl
@[simp] theorem clearError_op (s : State) : (clearError s).op = s.op := rfl
@[simp] theorem clearError_resValid (s : State) : (clearError s).resValid = s.resValid := rfl
@[simp] theorem clearError_tx (s : State) : (clearError s).tx = s.tx := rfl
@[simp] theorem clearError_host (s : State) : (clearError s).host = s.host := rfl
@[simp] theorem clearError_erased (s : State) : (clearError s).erased = s.erased := rfl
@[simp] theorem clearError_modelFault (s : State) : (clearError s).modelFault = s.modelFault := rfl

/-! ### markScheduleMade -/

@[simp] theorem markScheduleMade_h (s : State) : (markScheduleMade s).h = s.h := rfl
@[simp] theorem markScheduleMade_wr (s : State) : (markScheduleMade s).wr = s.wr := rfl
@[simp] theorem markScheduleMade_w (s : State) : (markScheduleMade s).w = s.w := rfl
@[simp] theorem markScheduleMade_res (s : State) : (markScheduleMade s).res = s.res := rfl
@[simp] theorem markScheduleMade_status (s : State) : (markScheduleMade s).status = s.status.scheduleMade := rfl
@[simp] theorem markScheduleMade_phase (s : State) : (markScheduleMade s).phase = s.phase := rfl
@[simp] theorem markScheduleMade_op (s : State) : (markScheduleMade s).op = s.op := rfl
@[simp] theorem markScheduleMade_resValid (s : State) : (markScheduleMade s).resValid = s.resValid := rfl
@[simp] theorem markScheduleMade_tx (s : State) : (markScheduleMade s).tx = s.tx := rfl
@[simp] theorem markScheduleMade_host (s : State) : (markScheduleMade s).host = s.host := rfl
@[simp] theorem markScheduleMade_erased (s : State) : (markScheduleMade s).erased = s.erased := rfl
@[simp] theorem markScheduleMade_modelFault (s : State) : (markScheduleMade s).modelFault = s.modelFault := rfl

/-! ### compressStorage -/

@[simp] theorem compressStorage_h (W : Vector Word 64) (s : State) : (compressStorage W s).h = (compressFn s.h W).2 := rfl
@[simp] theorem compressStorage_wr (W : Vector Word 64) (s : State) : (compressStorage W s).wr = written (compressFn s.h W).1 := rfl
@[simp] theorem compressStorage_w (W : Vector Word 64) (s : State) : (compressStorage W s).w = s.w := rfl
@[simp] theorem compressStorage_res (W : Vector Word 64) (s : State) : (compressStorage W s).res = s.res := rfl
@[simp] theorem compressStorage_status (W : Vector Word 64) (s : State) : (compressStorage W s).status = s.status.blockConsumed := rfl
@[simp] theorem compressStorage_phase (W : Vector Word 64) (s : State) : (compressStorage W s).phase = s.phase := rfl
@[simp] theorem compressStorage_op (W : Vector Word 64) (s : State) : (compressStorage W s).op = s.op := rfl
@[simp] theorem compressStorage_resValid (W : Vector Word 64) (s : State) : (compressStorage W s).resValid = s.resValid := rfl
@[simp] theorem compressStorage_tx (W : Vector Word 64) (s : State) : (compressStorage W s).tx = s.tx := rfl
@[simp] theorem compressStorage_host (W : Vector Word 64) (s : State) : (compressStorage W s).host = s.host := rfl
@[simp] theorem compressStorage_erased (W : Vector Word 64) (s : State) : (compressStorage W s).erased = s.erased := rfl
@[simp] theorem compressStorage_modelFault (W : Vector Word 64) (s : State) : (compressStorage W s).modelFault = s.modelFault := rfl

/-! ### beginOp -/

@[simp] theorem beginOp_h (o : SeqOp) (s : State) : (beginOp o s).h = s.h := rfl
@[simp] theorem beginOp_wr (o : SeqOp) (s : State) : (beginOp o s).wr = s.wr := rfl
@[simp] theorem beginOp_w (o : SeqOp) (s : State) : (beginOp o s).w = s.w := rfl
@[simp] theorem beginOp_res (o : SeqOp) (s : State) : (beginOp o s).res = s.res := rfl
@[simp] theorem beginOp_status (o : SeqOp) (s : State) : (beginOp o s).status = s.status := rfl
@[simp] theorem beginOp_phase (o : SeqOp) (s : State) : (beginOp o s).phase = firstPhase o := rfl
@[simp] theorem beginOp_op (o : SeqOp) (s : State) : (beginOp o s).op = some o := rfl
@[simp] theorem beginOp_resValid (o : SeqOp) (s : State) : (beginOp o s).resValid = s.resValid := rfl
@[simp] theorem beginOp_tx (o : SeqOp) (s : State) : (beginOp o s).tx = s.tx := rfl
@[simp] theorem beginOp_host (o : SeqOp) (s : State) : (beginOp o s).host = s.host := rfl
@[simp] theorem beginOp_erased (o : SeqOp) (s : State) : (beginOp o s).erased = s.erased := rfl
@[simp] theorem beginOp_modelFault (o : SeqOp) (s : State) : (beginOp o s).modelFault = s.modelFault := rfl

/-! ### finishOp -/

@[simp] theorem finishOp_h (s : State) : (finishOp s).h = s.h := rfl
@[simp] theorem finishOp_wr (s : State) : (finishOp s).wr = s.wr := rfl
@[simp] theorem finishOp_w (s : State) : (finishOp s).w = s.w := rfl
@[simp] theorem finishOp_res (s : State) : (finishOp s).res = s.res := rfl
@[simp] theorem finishOp_status (s : State) : (finishOp s).status = s.status := rfl
@[simp] theorem finishOp_phase (s : State) : (finishOp s).phase = .idle := rfl
@[simp] theorem finishOp_op (s : State) : (finishOp s).op = none := rfl
@[simp] theorem finishOp_resValid (s : State) : (finishOp s).resValid = s.resValid := rfl
@[simp] theorem finishOp_tx (s : State) : (finishOp s).tx = s.tx := rfl
@[simp] theorem finishOp_host (s : State) : (finishOp s).host = s.host := rfl
@[simp] theorem finishOp_erased (s : State) : (finishOp s).erased = s.erased := rfl
@[simp] theorem finishOp_modelFault (s : State) : (finishOp s).modelFault = s.modelFault := rfl

/-! ### endPulse -/

@[simp] theorem endPulse_h (s : State) : (endPulse s).h = s.h := rfl
@[simp] theorem endPulse_wr (s : State) : (endPulse s).wr = s.wr := rfl
@[simp] theorem endPulse_w (s : State) : (endPulse s).w = s.w := rfl
@[simp] theorem endPulse_res (s : State) : (endPulse s).res = s.res := rfl
@[simp] theorem endPulse_status (s : State) : (endPulse s).status = s.status := rfl
@[simp] theorem endPulse_phase (s : State) : (endPulse s).phase = s.phase := rfl
@[simp] theorem endPulse_op (s : State) : (endPulse s).op = s.op := rfl
@[simp] theorem endPulse_resValid (s : State) : (endPulse s).resValid = false := rfl
@[simp] theorem endPulse_tx (s : State) : (endPulse s).tx = s.tx := rfl
@[simp] theorem endPulse_host (s : State) : (endPulse s).host = s.host := rfl
@[simp] theorem endPulse_erased (s : State) : (endPulse s).erased = s.erased := rfl
@[simp] theorem endPulse_modelFault (s : State) : (endPulse s).modelFault = s.modelFault := rfl

/-! ### sample -/

@[simp] theorem sample_h (x : Transaction) (s : State) : (sample x s).h = s.h := rfl
@[simp] theorem sample_wr (x : Transaction) (s : State) : (sample x s).wr = s.wr := rfl
@[simp] theorem sample_w (x : Transaction) (s : State) : (sample x s).w = s.w := rfl
@[simp] theorem sample_res (x : Transaction) (s : State) : (sample x s).res = s.res := rfl
@[simp] theorem sample_status (x : Transaction) (s : State) : (sample x s).status = s.status := rfl
@[simp] theorem sample_phase (x : Transaction) (s : State) : (sample x s).phase = s.phase := rfl
@[simp] theorem sample_op (x : Transaction) (s : State) : (sample x s).op = s.op := rfl
@[simp] theorem sample_resValid (x : Transaction) (s : State) : (sample x s).resValid = false := rfl
@[simp] theorem sample_tx (x : Transaction) (s : State) : (sample x s).tx = x := rfl
@[simp] theorem sample_host (x : Transaction) (s : State) : (sample x s).host = s.host := rfl
@[simp] theorem sample_erased (x : Transaction) (s : State) : (sample x s).erased = s.erased := rfl
@[simp] theorem sample_modelFault (x : Transaction) (s : State) : (sample x s).modelFault = s.modelFault := rfl

/-! ### enterReset -/

@[simp] theorem enterReset_h (s : State) : (enterReset s).h = ivRom := rfl
@[simp] theorem enterReset_wr (s : State) : (enterReset s).wr = Vector.replicate 8 none := rfl
@[simp] theorem enterReset_w (s : State) : (enterReset s).w = Vector.replicate 64 none := rfl
@[simp] theorem enterReset_res (s : State) : (enterReset s).res = 0 := rfl
@[simp] theorem enterReset_status (s : State) : (enterReset s).status = Status.reset := rfl
@[simp] theorem enterReset_phase (s : State) : (enterReset s).phase = .idle := rfl
@[simp] theorem enterReset_op (s : State) : (enterReset s).op = none := rfl
@[simp] theorem enterReset_resValid (s : State) : (enterReset s).resValid = false := rfl
@[simp] theorem enterReset_tx (s : State) : (enterReset s).tx = Transaction.zero := rfl
@[simp] theorem enterReset_host (s : State) : (enterReset s).host = s.host := rfl
@[simp] theorem enterReset_erased (s : State) : (enterReset s).erased = ⟨s.w, s.wr⟩ :: s.erased := rfl
@[simp] theorem enterReset_modelFault (s : State) : (enterReset s).modelFault = s.modelFault := rfl

/-! ### presentWord -/

@[simp] theorem presentWord_h (c : CmdWord) (s : State) : (presentWord c s).h = s.h := rfl
@[simp] theorem presentWord_wr (c : CmdWord) (s : State) : (presentWord c s).wr = s.wr := rfl
@[simp] theorem presentWord_w (c : CmdWord) (s : State) : (presentWord c s).w = s.w := rfl
@[simp] theorem presentWord_res (c : CmdWord) (s : State) : (presentWord c s).res = s.res := rfl
@[simp] theorem presentWord_status (c : CmdWord) (s : State) : (presentWord c s).status = s.status := rfl
@[simp] theorem presentWord_phase (c : CmdWord) (s : State) : (presentWord c s).phase = .idle := rfl
@[simp] theorem presentWord_op (c : CmdWord) (s : State) : (presentWord c s).op = none := rfl
@[simp] theorem presentWord_resValid (c : CmdWord) (s : State) : (presentWord c s).resValid = s.resValid := rfl
@[simp] theorem presentWord_tx (c : CmdWord) (s : State) : (presentWord c s).tx = s.tx := rfl
@[simp] theorem presentWord_host (c : CmdWord) (s : State) : (presentWord c s).host = Pins.present { Transaction.zero with cmd := c } :: s.host := rfl
@[simp] theorem presentWord_erased (c : CmdWord) (s : State) : (presentWord c s).erased = s.erased := rfl
@[simp] theorem presentWord_modelFault (c : CmdWord) (s : State) : (presentWord c s).modelFault = s.modelFault := rfl

/-! ### STATUS -/

@[simp] theorem Status.messageWordLoaded_err (i : Fin 16) (st : Status) : (st.messageWordLoaded i).err = st.err := rfl
@[simp] theorem Status.messageWordLoaded_sv (i : Fin 16) (st : Status) : (st.messageWordLoaded i).sv = false := rfl
@[simp] theorem Status.messageWordLoaded_ecode (i : Fin 16) (st : Status) : (st.messageWordLoaded i).ecode = st.ecode := rfl
@[simp] theorem Status.messageWordLoaded_wvalid (i : Fin 16) (st : Status) : (st.messageWordLoaded i).wvalid = st.wvalid ||| BitVec.twoPow 16 i := rfl

@[simp] theorem Status.scheduleMade_err (st : Status) : (st.scheduleMade).err = st.err := rfl
@[simp] theorem Status.scheduleMade_sv (st : Status) : (st.scheduleMade).sv = true := rfl
@[simp] theorem Status.scheduleMade_ecode (st : Status) : (st.scheduleMade).ecode = st.ecode := rfl
@[simp] theorem Status.scheduleMade_wvalid (st : Status) : (st.scheduleMade).wvalid = st.wvalid := rfl

@[simp] theorem Status.blockConsumed_err (st : Status) : (st.blockConsumed).err = st.err := rfl
@[simp] theorem Status.blockConsumed_sv (st : Status) : (st.blockConsumed).sv = false := rfl
@[simp] theorem Status.blockConsumed_ecode (st : Status) : (st.blockConsumed).ecode = st.ecode := rfl
@[simp] theorem Status.blockConsumed_wvalid (st : Status) : (st.blockConsumed).wvalid = 0 := rfl

@[simp] theorem Status.clearError_err (st : Status) : (st.clearError).err = false := rfl
@[simp] theorem Status.clearError_sv (st : Status) : (st.clearError).sv = st.sv := rfl
@[simp] theorem Status.clearError_ecode (st : Status) : (st.clearError).ecode = 0 := rfl
@[simp] theorem Status.clearError_wvalid (st : Status) : (st.clearError).wvalid = st.wvalid := rfl

@[simp] theorem Status.recordError_of_err (e : CoreError) (st : Status) (h : st.err = true) : st.recordError e = st := by
  simp [Status.recordError, h]

@[simp] theorem Status.recordError_of_no_err (e : CoreError) (st : Status) (h : st.err = false) :
    st.recordError e = { st with err := true, ecode := errorCode e } := by
  simp [Status.recordError, h]

@[simp] theorem Status.recordError_err (e : CoreError) (st : Status) : (st.recordError e).err = true := by
  cases h : st.err <;> simp [h]

@[simp] theorem Status.recordError_sv (e : CoreError) (st : Status) : (st.recordError e).sv = st.sv := by
  cases h : st.err <;> simp [h]

@[simp] theorem Status.recordError_wvalid (e : CoreError) (st : Status) : (st.recordError e).wvalid = st.wvalid := by
  cases h : st.err <;> simp [h]

theorem Status.messageComplete_iff (st : Status) : st.messageComplete = true ↔ st.wvalid = 0xFFFF#16 := by
  simp [Status.messageComplete]

/-! ### BUSY -/

@[simp] theorem busy_eq_false_iff (s : State) : s.busy = false ↔ s.phase = .idle := by simp [State.busy]

@[simp] theorem busy_eq_true_iff (s : State) : s.busy = true ↔ s.phase ≠ .idle := by simp [State.busy]

end Sys2Proof.Machine
end

