-- ==== Sys2Proof/Laws/Ops.lean ====
section
/-! SUPPORT. What each shared operation can answer, said once: reads of words that can hold no value, the expansion and
the compression over the storage. -/

namespace Sys2Proof.Machine

/-! ### Reads -/

theorem readWord_ok_iff (loc : Loc) (v : Option Word) (x : Word) : readWord loc v = .ok x ↔ v = some x := by
  cases v <;> simp [readWord]

theorem readWord_error_iff (loc : Loc) (v : Option Word) (f : Fault) :
    readWord loc v = .error f ↔ v = none ∧ f = .unwrittenRead loc := by
  cases v <;> simp [readWord, eq_comm]

@[simp] theorem readW_some (i : Fin 64) (s : State) (x : Word) (h : s.w[i] = some x) : readW i s = .ok x := by
  simp only [readW, h, readWord]

@[simp] theorem readW_none (i : Fin 64) (s : State) (h : s.w[i] = none) :
    readW i s = .error (.unwrittenRead (.w i)) := by
  simp only [readW, h, readWord]

@[simp] theorem readWr_some (j : Fin 8) (s : State) (x : Word) (h : s.wr[j] = some x) : readWr j s = x := by
  simp only [readWr, h, Option.getD_some]

@[simp] theorem readWr_none (j : Fin 8) (s : State) (h : s.wr[j] = none) :
    readWr j s = Config.leftInWr s.erased j := by
  simp only [readWr, h, Option.getD_none]

@[simp] theorem noteRead_some (loc : Loc) (x : Word) (s : State) : noteRead loc (some x) s = s := rfl

@[simp] theorem noteRead_none (loc : Loc) (s : State) :
    noteRead loc none s = { s with modelFault := s.modelFault.or (some loc) } := rfl

/-- All that a read can do to the mark: it is as it was, or it was none and names the register that held no value (R36). -/
theorem noteRead_modelFault_cases (loc : Loc) (v : Option Word) (s : State) :
    (noteRead loc v s).modelFault = s.modelFault ∨
      (v = none ∧ s.modelFault = none ∧ (noteRead loc v s).modelFault = some loc) := by
  cases v <;> cases h : s.modelFault <;> simp [h]

@[simp] theorem finishRead_ok (x : Word) (s : State) : finishRead (.ok x) s = .next (writeRes x s) := rfl

@[simp] theorem finishRead_error (f : Fault) (s : State) : finishRead (.error f) s = .fault f := rfl

theorem finishRead_next (v : Except Fault Word) (s t : State) :
    finishRead v s = .next t ↔ ∃ x, v = .ok x ∧ t = writeRes x s := by
  cases v <;> simp [eq_comm]

@[simp] theorem flopsW_some (i : Fin 64) (s : State) (x : Word) (h : s.w[i] = some x) : flopsW i s = x := by
  simp only [flopsW, h, Option.getD_some]

@[simp] theorem written_getElem {n : Nat} (v : Vector Word n) (k : Nat) (h : k < n) : (written v)[k] = some v[k] := by
  simp [written]

theorem written_injective {n : Nat} {v v' : Vector Word n} (h : written v = written v') : v = v' := by
  apply Vector.ext
  intro k hk
  have := congrArg (fun x => x[k]) h
  simpa using this

/-- A file whose entries all hold a word is `written` of its words. -/
theorem exists_written {n : Nat} (v : Vector (Option Word) n) (h : ∀ i : Fin n, v[i].isSome = true) :
    ∃ x, v = written x := by
  refine ⟨Vector.ofFn fun i => v[i].get (h i), ?_⟩
  ext k hk
  simp

theorem readAll_ok_iff {n : Nat} (loc : Fin n → Loc) (v : Vector (Option Word) n) (x : Vector Word n) :
    readAll loc v = .ok x ↔ v = written x := by
  unfold readAll
  cases hf : (List.finRange n).find? fun i => v[i].isNone with
  | some i =>
    have hi := List.find?_some hf
    constructor
    · intro h; cases h
    · rintro rfl; simp at hi
  | none =>
    have hall : ∀ i : Fin n, v[i].isSome = true := by
      intro i
      have := List.find?_eq_none.mp hf i (List.mem_finRange i)
      simpa [Option.isNone_iff_eq_none, Option.isSome_iff_ne_none] using this
    obtain ⟨y, rfl⟩ := exists_written v hall
    have hy : (Vector.ofFn fun i : Fin n => (written y)[i].getD 0) = y := by ext k hk; simp
    simp only [hy]
    constructor
    · intro h; cases h; rfl
    · intro h; rw [written_injective h]

@[simp] theorem readAll_written {n : Nat} (loc : Fin n → Loc) (x : Vector Word n) :
    readAll loc (written x) = .ok x := (readAll_ok_iff loc _ x).mpr rfl

/-- A failed read of a file names an entry of it that holds no value. -/
theorem readAll_error {n : Nat} (loc : Fin n → Loc) (v : Vector (Option Word) n) (f : Fault)
    (h : readAll loc v = .error f) : ∃ i, v[i] = none ∧ f = .unwrittenRead (loc i) := by
  unfold readAll at h
  cases hf : (List.finRange n).find? fun i => v[i].isNone with
  | some i =>
    have hi := List.find?_some hf
    rw [hf] at h
    refine ⟨i, by simpa using hi, ?_⟩
    cases h; rfl
  | none => rw [hf] at h; cases h

theorem readMessage_ok_iff (s : State) (m : Vector Word 16) :
    readMessage s = .ok m ↔ ∀ i : Fin 16, s.w[i.val] = some m[i] := by
  unfold readMessage
  rw [readAll_ok_iff]
  constructor
  · intro h i
    have := congrArg (fun x => x[i.val]) h
    simpa using this
  · intro h
    ext k hk
    simp [h ⟨k, hk⟩]

theorem readSchedule_ok_iff (s : State) (W : Vector Word 64) : readSchedule s = .ok W ↔ s.w = written W :=
  readAll_ok_iff _ _ _

theorem readWorking_getElem (s : State) (k : Nat) (h : k < 8) : (readWorking s)[k] = readWr ⟨k, h⟩ s := by
  simp [readWorking]

theorem readWorking_of (s : State) (x : Vector Word 8) (h : s.wr = written x) : readWorking s = x := by
  ext k hk : 1
  rw [readWorking_getElem]
  exact readWr_some _ _ _ (by simp [h])

/-! ### Writes -/

theorem storeSchedule_getElem (S : Vector Word 64) (w : Vector (Option Word) 64) (k : Nat) (h : k < 64) :
    (storeSchedule S w)[k] = if k < 16 then w[k] else some S[k] := by
  simp [storeSchedule]

theorem foldState_getElem (hin s : Vector Word 8) (k : Nat) (h : k < 8) : (foldState hin s)[k] = hin[k] + s[k] := by
  simp [foldState]

/-! ### Errors -/

/-- All that raising an error can do: nothing where ERR is set, else ERR and ECODE (R252). -/
theorem raiseCoreError_cases (e : CoreError) (s : State) :
    (s.status.err = true ∧ raiseCoreError e s = s) ∨
      (s.status.err = false ∧
        raiseCoreError e s = { s with status := { s.status with err := true, ecode := errorCode e } }) := by
  cases h : s.status.err
  · right; simp [raiseCoreError, h]
  · left; simp [raiseCoreError, h]

/-! ### Expansion over the storage -/

/-- All that the expansion over the storage can do: the model fault of a message word that holds no value, or the rest
of the command with the schedule stored. -/
theorem expandStorage_cases (s : State) (rest : Vector Word 64 → State → Result) :
    (∃ i : Fin 16, s.w[i.val] = none ∧
        expandStorage s rest = .fault (.unwrittenRead (.w (i.castLE (by decide))))) ∨
      (∃ m : Vector Word 16, (∀ i : Fin 16, s.w[i.val] = some m[i]) ∧
        expandStorage s rest = rest (expand m) { s with w := storeSchedule (expand m) s.w }) := by
  cases hm : readMessage s with
  | error f =>
    left
    obtain ⟨i, hi, rfl⟩ := readAll_error _ _ _ hm
    exact ⟨i, by simpa using hi, by simp only [expandStorage, hm]⟩
  | ok m =>
    right
    exact ⟨m, (readMessage_ok_iff s m).mp hm, by simp only [expandStorage, hm]⟩

theorem expandStorage_of_message (s : State) (rest : Vector Word 64 → State → Result) (m : Vector Word 16)
    (h : ∀ i : Fin 16, s.w[i.val] = some m[i]) :
    expandStorage s rest = rest (expand m) { s with w := storeSchedule (expand m) s.w } := by
  simp only [expandStorage, (readMessage_ok_iff s m).mpr h]

end Sys2Proof.Machine
end

