-- ==== Sys2Proof/Laws/Exec.lean ====
section
/-! SUPPORT. What the meanings with more than one outcome, and one clock edge, can do: one lemma each. -/

namespace Sys2Proof.Machine

/-! ### The multi-cycle commands, by their sequencing check -/

theorem execExpand_incomplete (s : State) (h : s.status.messageComplete = false) :
    execExpand s = .next (raiseCoreError .messageIncomplete s) := by
  simp [execExpand, h]

theorem execExpand_complete (s : State) (h : s.status.messageComplete = true) (m : Vector Word 16)
    (hm : ∀ i : Fin 16, s.w[i.val] = some m[i]) :
    execExpand s = .next (markScheduleMade { s with w := storeSchedule (expand m) s.w }) := by
  simp only [execExpand, h, if_true, expandStorage_of_message _ _ m hm]

theorem execCompress_invalid (s : State) (h : s.status.sv = false) :
    execCompress s = .next (raiseCoreError .scheduleNotValid s) := by
  simp [execCompress, h]

theorem execCompress_valid (s : State) (h : s.status.sv = true) (W : Vector Word 64) (hW : s.w = written W) :
    execCompress s = .next (compressStorage W s) := by
  simp only [execCompress, h, if_true, (readSchedule_ok_iff s W).mpr hW]

theorem execHashblk_incomplete (s : State) (h : s.status.messageComplete = false) :
    execHashblk s = .next (raiseCoreError .messageIncomplete s) := by
  simp [execHashblk, h]

theorem execHashblk_complete (s : State) (h : s.status.messageComplete = true) (m : Vector Word 16)
    (hm : ∀ i : Fin 16, s.w[i.val] = some m[i]) :
    execHashblk s = .next (compressStorage (expand m) { s with w := storeSchedule (expand m) s.w }) := by
  simp only [execHashblk, h, if_true, expandStorage_of_message _ _ m hm]

/-! ### All that a multi-cycle command can do -/

theorem execExpand_cases (s : State) :
    (s.status.messageComplete = false ∧ execExpand s = .next (raiseCoreError .messageIncomplete s)) ∨
      (s.status.messageComplete = true ∧ ∃ m : Vector Word 16, (∀ i : Fin 16, s.w[i.val] = some m[i]) ∧
        execExpand s = .next (markScheduleMade { s with w := storeSchedule (expand m) s.w })) ∨
      (s.status.messageComplete = true ∧ ∃ i : Fin 16, s.w[i.val] = none ∧
        execExpand s = .fault (.unwrittenRead (.w (i.castLE (by decide))))) := by
  cases hc : s.status.messageComplete
  · exact .inl ⟨rfl, execExpand_incomplete s hc⟩
  · rcases expandStorage_cases s (fun _ s' => .next (markScheduleMade s')) with ⟨i, hi, h2⟩ | ⟨m, hm, _⟩
    · exact .inr (.inr ⟨rfl, i, hi, by simpa only [execExpand, hc, if_true] using h2⟩)
    · exact .inr (.inl ⟨rfl, m, hm, execExpand_complete s hc m hm⟩)

theorem execHashblk_cases (s : State) :
    (s.status.messageComplete = false ∧ execHashblk s = .next (raiseCoreError .messageIncomplete s)) ∨
      (s.status.messageComplete = true ∧ ∃ m : Vector Word 16, (∀ i : Fin 16, s.w[i.val] = some m[i]) ∧
        execHashblk s = .next (compressStorage (expand m) { s with w := storeSchedule (expand m) s.w })) ∨
      (s.status.messageComplete = true ∧ ∃ i : Fin 16, s.w[i.val] = none ∧
        execHashblk s = .fault (.unwrittenRead (.w (i.castLE (by decide))))) := by
  cases hc : s.status.messageComplete
  · exact .inl ⟨rfl, execHashblk_incomplete s hc⟩
  · rcases expandStorage_cases s (fun S s' => .next (compressStorage S s')) with ⟨i, hi, h2⟩ | ⟨m, hm, _⟩
    · exact .inr (.inr ⟨rfl, i, hi, by simpa only [execHashblk, hc, if_true] using h2⟩)
    · exact .inr (.inl ⟨rfl, m, hm, execHashblk_complete s hc m hm⟩)

theorem execCompress_cases (s : State) :
    (s.status.sv = false ∧ execCompress s = .next (raiseCoreError .scheduleNotValid s)) ∨
      (s.status.sv = true ∧ ∃ W, s.w = written W ∧ execCompress s = .next (compressStorage W s)) ∨
      (s.status.sv = true ∧ ∃ i : Fin 64, s.w[i] = none ∧ execCompress s = .fault (.unwrittenRead (.w i))) := by
  cases hc : s.status.sv
  · exact .inl ⟨rfl, execCompress_invalid s hc⟩
  · cases hr : readSchedule s with
    | error f =>
      obtain ⟨i, hi, rfl⟩ := readAll_error _ _ _ hr
      exact .inr (.inr ⟨rfl, i, hi, by simp only [execCompress, hc, if_true, hr]⟩)
    | ok W =>
      have hW := (readSchedule_ok_iff _ _).mp hr
      exact .inr (.inl ⟨rfl, W, hW, execCompress_valid s hc W hW⟩)

/-! ### The reads of entries that can hold no value -/

theorem execRdw_some (i : Fin 64) (s : State) (x : Word) (h : s.w[i] = some x) :
    execRdw i s = .next (writeRes x s) := by
  rw [execRdw, readW_some i s x h, finishRead_ok]

theorem execRdw_none (i : Fin 64) (s : State) (h : s.w[i] = none) :
    execRdw i s = .fault (.unwrittenRead (.w i)) := by
  rw [execRdw, readW_none i s h, finishRead_error]

theorem execRda_some (j : Fin 8) (s : State) (x : Word) (h : s.wr[j] = some x) :
    execRda j s = .next (writeRes x s) := by
  simp only [execRda, h, readWr_some j s x h, noteRead_some]

theorem execRda_none (j : Fin 8) (s : State) (h : s.wr[j] = none) :
    execRda j s =
      .next (writeRes (Config.leftInWr s.erased j) { s with modelFault := s.modelFault.or (some (.wr j)) }) := by
  simp only [execRda, h, readWr_none j s h, noteRead_none]

theorem execRdw_next (i : Fin 64) (s t : State) :
    execRdw i s = .next t ↔ ∃ x, s.w[i] = some x ∧ t = writeRes x s := by
  simp only [execRdw, finishRead_next, readW, readWord_ok_iff]

/-! ### What a command can do -/

/-- What a command's next state can be: the update it makes, with the condition it makes it under. -/
inductive ExecCase (i : Instr) (s t : State) : Prop
  | nothing (hi : i = .nop) (ht : t = s)
  | errorCleared (hi : i = .clrerr) (ht : t = clearError s)
  | result (v : Word) (hi : writesRes i = true) (hw : ∀ k, i ≠ .rdw k) (ha : ∀ j, i ≠ .rda j)
      (ht : t = writeRes v s)
  | scheduleRead (k : Fin 64) (v : Word) (hi : i = .rdw k) (hv : s.w[k] = some v) (ht : t = writeRes v s)
  | workingRead (j : Fin 8) (hi : i = .rda j) (ht : t = writeRes (readWr j s) (noteRead (.wr j) s.wr[j] s))
  | messageWord (k : Fin 16) (v : Word) (hi : i = .ldw k) (ht : t = loadMessageWord k v s)
  | initialized (hi : i = .init) (ht : t = { s with h := ivRom })
  | chainingWord (j : Fin 8) (v : Word) (hi : i = .ldh j) (ht : t = writeH j v s)
  | expandError (hi : i = .expand) (hc : s.status.messageComplete = false)
      (ht : t = raiseCoreError .messageIncomplete s)
  | expanded (m : Vector Word 16) (hi : i = .expand) (hc : s.status.messageComplete = true)
      (hm : ∀ k : Fin 16, s.w[k.val] = some m[k])
      (ht : t = markScheduleMade { s with w := storeSchedule (expand m) s.w })
  | compressError (hi : i = .compress) (hc : s.status.sv = false) (ht : t = raiseCoreError .scheduleNotValid s)
  | compressed (W : Vector Word 64) (hi : i = .compress) (hc : s.status.sv = true) (hW : s.w = written W)
      (ht : t = compressStorage W s)
  | hashblkError (hi : i = .hashblk) (hc : s.status.messageComplete = false)
      (ht : t = raiseCoreError .messageIncomplete s)
  | hashed (m : Vector Word 16) (hi : i = .hashblk) (hc : s.status.messageComplete = true)
      (hm : ∀ k : Fin 16, s.w[k.val] = some m[k])
      (ht : t = compressStorage (expand m) { s with w := storeSchedule (expand m) s.w })

/-- An answer is one state. -/
theorem next_eq {r : Result} {a b : State} (ha : r = .next a) (hb : r = .next b) : b = a :=
  (Host.Outcome.next.inj (ha.symm.trans hb)).symm

/-- Every next state of a command is one of the cases. -/
theorem exec_cases {i : Instr} {s t : State} (h : exec i s = .next t) : ExecCase i s t := by
  cases i with
  | nop => cases h; exact .nothing rfl rfl
  | clrerr => cases h; exact .errorCleared rfl rfl
  | ldw k => cases h; exact .messageWord k _ rfl rfl
  | init => cases h; exact .initialized rfl rfl
  | ldh j => cases h; exact .chainingWord j _ rfl rfl
  | expand =>
    rcases execExpand_cases s with ⟨hc, he⟩ | ⟨hc, m, hm, he⟩ | ⟨_, _, _, he⟩
    · exact .expandError rfl hc (next_eq he h)
    · exact .expanded m rfl hc hm (next_eq he h)
    · cases he.symm.trans h
  | compress =>
    rcases execCompress_cases s with ⟨hc, he⟩ | ⟨hc, W, hW, he⟩ | ⟨_, _, _, he⟩
    · exact .compressError rfl hc (next_eq he h)
    · exact .compressed W rfl hc hW (next_eq he h)
    · cases he.symm.trans h
  | hashblk =>
    rcases execHashblk_cases s with ⟨hc, he⟩ | ⟨hc, m, hm, he⟩ | ⟨_, _, _, he⟩
    · exact .hashblkError rfl hc (next_eq he h)
    · exact .hashed m rfl hc hm (next_eq he h)
    · cases he.symm.trans h
  | rdw k =>
    obtain ⟨x, hx, rfl⟩ := (execRdw_next k s t).mp h
    exact .scheduleRead k x rfl hx rfl
  | rda j => cases h; exact .workingRead j rfl rfl
  | rdstat => cases h; exact .result _ rfl nofun nofun rfl
  | add => cases h; exact .result _ rfl nofun nofun rfl
  | xor => cases h; exact .result _ rfl nofun nofun rfl
  | rotr n => cases h; exact .result _ rfl nofun nofun rfl
  | shr n => cases h; exact .result _ rfl nofun nofun rfl
  | ch => cases h; exact .result _ rfl nofun nofun rfl
  | maj => cases h; exact .result _ rfl nofun nofun rfl
  | usig0 => cases h; exact .result _ rfl nofun nofun rfl
  | usig1 => cases h; exact .result _ rfl nofun nofun rfl
  | lsig0 => cases h; exact .result _ rfl nofun nofun rfl
  | lsig1 => cases h; exact .result _ rfl nofun nofun rfl
  | rdk k => cases h; exact .result _ rfl nofun nofun rfl
  | rdh j => cases h; exact .result _ rfl nofun nofun rfl

/-- Every command answers a next state or the model fault of a schedule entry that it reads and that holds no value (R12,
R36). -/
theorem exec_next_or_fault (i : Instr) (s : State) :
    (∃ t, exec i s = .next t) ∨ ∃ k : Fin 64, s.w[k] = none ∧ exec i s = .fault (.unwrittenRead (.w k)) := by
  cases i with
  | expand =>
    rcases execExpand_cases s with ⟨_, he⟩ | ⟨_, _, _, he⟩ | ⟨_, k, hk, he⟩
    · exact .inl ⟨_, he⟩
    · exact .inl ⟨_, he⟩
    · exact .inr ⟨_, hk, he⟩
  | compress =>
    rcases execCompress_cases s with ⟨_, he⟩ | ⟨_, _, _, he⟩ | ⟨_, k, hk, he⟩
    · exact .inl ⟨_, he⟩
    · exact .inl ⟨_, he⟩
    · exact .inr ⟨k, hk, he⟩
  | hashblk =>
    rcases execHashblk_cases s with ⟨_, he⟩ | ⟨_, _, _, he⟩ | ⟨_, k, hk, he⟩
    · exact .inl ⟨_, he⟩
    · exact .inl ⟨_, he⟩
    · exact .inr ⟨_, hk, he⟩
  | rdw k =>
    cases hk : s.w[k] with
    | none => exact .inr ⟨k, hk, execRdw_none k s hk⟩
    | some x => exact .inl ⟨_, execRdw_some k s x hk⟩
  | _ => exact .inl ⟨_, rfl⟩

/-- The hardware does what the model does wherever the model answers a next state. -/
theorem hardwareExec_of_next {i : Instr} {s t : State} (h : exec i s = .next t) : hardwareExec i s = .next t := by
  cases i with
  | rdw k =>
    obtain ⟨x, hx, rfl⟩ := (execRdw_next k s t).mp h
    rw [hardwareExec, hardwareRdw, flopsW_some k s x hx]
  | _ => exact h

/-! ### One edge -/

theorem clockEdge_reset (run : Instr → State → Result) (work : State → Result) (p : Pins) (s : State)
    (h : p.rstN = false) : clockEdge run work p s = .next (enterReset s) := by
  simp [clockEdge, h]

theorem accepts_iff (p : Pins) (s : State) :
    accepts p s = true ↔ p.rstN = true ∧ p.cmdValid = true ∧ s.phase = .idle := by
  simp [accepts, cmdReady]
  tauto

theorem clockEdge_accept (run : Instr → State → Result) (work : State → Result) (p : Pins) (s : State)
    (hr : p.rstN = true) (hv : p.cmdValid = true) (hi : s.phase = .idle) :
    clockEdge run work p s = runSampled run (sample p.tx s) := by
  have ha : accepts p s = true := (accepts_iff p s).mpr ⟨hr, hv, hi⟩
  simp [clockEdge, hr, ha]

theorem clockEdge_ignored (run : Instr → State → Result) (work : State → Result) (p : Pins) (s : State)
    (hr : p.rstN = true) (ha : accepts p s = false) : clockEdge run work p s = work (endPulse s) := by
  simp [clockEdge, hr, ha]

theorem clockEdge_busy (run : Instr → State → Result) (work : State → Result) (p : Pins) (s : State)
    (hr : p.rstN = true) (hb : s.phase ≠ .idle) : clockEdge run work p s = work (endPulse s) := by
  refine clockEdge_ignored run work p s hr ?_
  rw [Bool.eq_false_iff]
  intro h
  exact hb ((accepts_iff p s).mp h).2.2

theorem clockEdge_nothing (run : Instr → State → Result) (work : State → Result) (p : Pins) (s : State)
    (hr : p.rstN = true) (hv : p.cmdValid = false) : clockEdge run work p s = work (endPulse s) :=
  clockEdge_ignored run work p s hr (by simp [accepts, hv])

theorem subStep_idle (s : State) (hi : s.phase = .idle) : subStep s = .next s := by
  simp [subStep, hi]

theorem runSampled_some (run : Instr → State → Result) (s : State) (i : Instr) (h : decode s.tx.cmd = some i) :
    runSampled run s = run i s := by
  simp [runSampled, h]

theorem runSampled_none (run : Instr → State → Result) (s : State) (h : decode s.tx.cmd = none) :
    runSampled run s = .next (raiseCoreError .illegalCommand s) := by
  simp [runSampled, h, execIllegal]

theorem step_nil (s : State) (h : s.host = []) : step s = transactEdge Pins.quiet s := by
  simp [step, takeDrive, h]

theorem step_cons (s : State) (p : Pins) (rest : List Pins) (h : s.host = p :: rest) :
    step s = transactEdge p { s with host := rest } := by
  simp [step, takeDrive, h]

end Sys2Proof.Machine
end

