-- ==== Sys2Proof/Laws/Expansion.lean ====
section
/-! SUPPORT. The index differences of the recurrence, and one pass of the expansion loop. -/

namespace Sys2Proof.Machine

/-- For t of 16 and more the index differences of R165, taken in 0..63, are the plain ones. -/
theorem scheduleIndex_sub (t d : Nat) (hd : d ≤ 16) (h16 : 16 ≤ t) (h : t < 64) :
    (⟨t, h⟩ : Fin 64) - Fin.ofNat 64 d = ⟨t - d, by omega⟩ := by
  ext
  simp [Fin.sub_def]
  omega

/-- One pass of the loop of R165 at t of 16 and more: S[t] becomes the recurrence's word, the rest stays. -/
theorem expandStep_getElem (S : Vector Word 64) (t : Nat) (h16 : 16 ≤ t) (ht : t < 64) (k : Nat) (hk : k < 64) :
    (expandStep S ⟨t, ht⟩)[k] =
      if k = t then scheduleWord S[t - 2] S[t - 7] S[t - 15] S[t - 16] else S[k] := by
  have e2 := scheduleIndex_sub t 2 (by omega) h16 ht
  have e7 := scheduleIndex_sub t 7 (by omega) h16 ht
  have e15 := scheduleIndex_sub t 15 (by omega) h16 ht
  have e16 := scheduleIndex_sub t 16 (by omega) h16 ht
  simp only [Fin.ofNat_eq_cast, Nat.cast_ofNat] at e2 e7 e15 e16
  simp only [expandStep, Vector.getElem_set, Fin.getElem_fin, e2, e7, e15, e16, eq_comm (a := k)]

/-- The loop's indices: 16 + n for n below 48. -/
theorem expandIndex (n : Nat) (hn : n < 48) : Fin.ofNat 64 (16 + n) = ⟨16 + n, by omega⟩ := by
  ext
  simp
  omega

end Sys2Proof.Machine
end

