-- ==== Sys2Proof/Laws/PerInstr.lean ====
section
/-! SUPPORT. One law per command: its encoding stands in a row of the command table. -/

namespace Sys2Proof.Laws.EncodedRow

/-- The word of a well-formed command matches a row of the command table (R104), and that row's `build`, given the
word's IMM8 field, is the command. -/
def Statement (i : Instr) : Prop :=
  i.wellFormed = true → ∃ r ∈ commandTable, rowMatches (encode i) r = true ∧ r.build (immField (encode i)) = i

/-- The row at place `k` of the table is the command's. -/
theorem of_place (i : Instr) (k : Nat) (hk : k < commandTable.length)
    (h : rowMatches (encode i) commandTable[k] = true ∧ commandTable[k].build (immField (encode i)) = i) :
    Statement i := fun _ => ⟨commandTable[k], List.getElem_mem hk, h⟩

theorem nop : Statement .nop := of_place .nop 0 (by decide) (by decide)

theorem clrerr : Statement .clrerr := of_place .clrerr 1 (by decide) (by decide)

theorem rdstat : Statement .rdstat := of_place .rdstat 2 (by decide) (by decide)

theorem add : Statement .add := of_place .add 3 (by decide) (by decide)

theorem xor : Statement .xor := of_place .xor 4 (by decide) (by decide)

theorem rotr (n : Nat) : Statement (.rotr n) := by
  intro h
  have hn : n < 256 := by simpa [Instr.wellFormed] using h
  have all : ∀ a : Fin 256, rowMatches (encode (.rotr a)) commandTable[5] = true ∧
      commandTable[5].build (immField (encode (.rotr a))) = .rotr a := by decide +kernel
  exact of_place (.rotr n) 5 (by decide) (all ⟨n, hn⟩) h

theorem shr (n : Nat) : Statement (.shr n) := by
  intro h
  have hn : n < 256 := by simpa [Instr.wellFormed] using h
  have all : ∀ a : Fin 256, rowMatches (encode (.shr a)) commandTable[6] = true ∧
      commandTable[6].build (immField (encode (.shr a))) = .shr a := by decide +kernel
  exact of_place (.shr n) 6 (by decide) (all ⟨n, hn⟩) h

theorem ch : Statement .ch := of_place .ch 7 (by decide) (by decide)

theorem maj : Statement .maj := of_place .maj 8 (by decide) (by decide)

theorem usig0 : Statement .usig0 := of_place .usig0 9 (by decide) (by decide)

theorem usig1 : Statement .usig1 := of_place .usig1 10 (by decide) (by decide)

theorem lsig0 : Statement .lsig0 := of_place .lsig0 11 (by decide) (by decide)

theorem lsig1 : Statement .lsig1 := of_place .lsig1 12 (by decide) (by decide)

theorem ldw (i : Fin 16) : Statement (.ldw i) := of_place (.ldw i) 13 (by decide) (by decide +revert)

theorem rdw (i : Fin 64) : Statement (.rdw i) := of_place (.rdw i) 14 (by decide) (by decide +revert)

theorem expand : Statement .expand := of_place .expand 15 (by decide) (by decide)

theorem rdk (i : Fin 64) : Statement (.rdk i) := of_place (.rdk i) 16 (by decide) (by decide +revert)

theorem rda (j : Fin 8) : Statement (.rda j) := of_place (.rda j) 17 (by decide) (by decide +revert)

theorem compress : Statement .compress := of_place .compress 18 (by decide) (by decide)

theorem init : Statement .init := of_place .init 19 (by decide) (by decide)

theorem ldh (j : Fin 8) : Statement (.ldh j) := of_place (.ldh j) 20 (by decide) (by decide +revert)

theorem rdh (j : Fin 8) : Statement (.rdh j) := of_place (.rdh j) 21 (by decide) (by decide +revert)

theorem hashblk : Statement .hashblk := of_place .hashblk 22 (by decide) (by decide)

end Sys2Proof.Laws.EncodedRow
end

