-- ==== Sys2Proof/Laws/Timing.lean ====
section
/-! SUPPORT. Runs chained by `andThen`, sub-steps in a row, and what one edge of the clocked machine can do. -/

namespace Sys2Proof.Machine

section AndThen

variable {σ τ υ : Type}

@[simp] theorem andThen_next (s : σ) (k : σ → Host.Outcome τ Fault Refusal) : andThen (.next s) k = k s := rfl

@[simp] theorem andThen_fault (f : Fault) (k : σ → Host.Outcome τ Fault Refusal) :
    andThen (.fault f) k = .fault f := rfl

@[simp] theorem andThen_refused (r : Refusal) (k : σ → Host.Outcome τ Fault Refusal) :
    andThen (.refused r) k = .refused r := rfl

theorem andThen_assoc (r : Host.Outcome σ Fault Refusal) (k : σ → Host.Outcome τ Fault Refusal)
    (l : τ → Host.Outcome υ Fault Refusal) : andThen (andThen r k) l = andThen r fun s => andThen (k s) l := by
  cases r <;> rfl

theorem andThen_eq_next (r : Host.Outcome σ Fault Refusal) (k : σ → Host.Outcome τ Fault Refusal) (t : τ) :
    andThen r k = .next t ↔ ∃ s, r = .next s ∧ k s = .next t := by
  cases r <;> simp [andThen]

end AndThen

/-! ### Sub-steps in a row -/

@[simp] theorem subSteps_zero (s : State) : subSteps 0 s = .next s := rfl

theorem subSteps_succ (n : Nat) (s : State) : subSteps (n + 1) s = andThen (subStep s) (subSteps n) := rfl

theorem subSteps_add (m n : Nat) (s : State) : subSteps (m + n) s = andThen (subSteps m s) (subSteps n) := by
  induction m generalizing s with
  | zero => simp
  | succ m ih =>
    rw [Nat.succ_add, subSteps_succ, subSteps_succ, andThen_assoc]
    congr 1
    funext t
    exact ih t

/-! ### One edge of the clocked machine -/

theorem timedEdge_reset (lat : Latencies) (p : Pins) (m : Timed) (h : p.rstN = false) :
    timedEdge lat p m = .next ⟨enterReset m.core, 0⟩ := by
  simp [timedEdge, clockEdge_reset _ _ _ _ h, countdown, h]

theorem timedEdge_accept (lat : Latencies) (p : Pins) (m : Timed) (i : Instr) (hr : p.rstN = true)
    (hv : p.cmdValid = true) (hi : m.core.phase = .idle) (hd : decode p.tx.cmd = some i) :
    timedEdge lat p m =
      andThen (startCommand i (sample p.tx m.core)) fun s => .next ⟨s, busyCycles lat i m.core⟩ := by
  have ha : accepts p m.core = true := (accepts_iff p m.core).mpr ⟨hr, hv, hi⟩
  have hs : decode (sample p.tx m.core).tx.cmd = some i := hd
  simp [timedEdge, clockEdge_accept _ _ _ _ hr hv hi, runSampled_some _ _ i hs, countdown, hr, ha, hd]

theorem timedEdge_busy (lat : Latencies) (p : Pins) (m : Timed) (hr : p.rstN = true) (hb : m.core.phase ≠ .idle) :
    timedEdge lat p m = andThen (pacedWork m.left (endPulse m.core)) fun s => .next ⟨s, m.left - 1⟩ := by
  have ha : accepts p m.core = false := by
    rw [Bool.eq_false_iff]
    exact fun h => hb ((accepts_iff p m.core).mp h).2.2
  simp [timedEdge, clockEdge_ignored _ _ _ _ hr ha, countdown, hr, ha]

end Sys2Proof.Machine
end

