-- ==== Sys2Proof/Machine/Assembler.lean ====
section
/-! DEFINITION. The assembler text of CORE-1: reading a line, and the listing form (R108 to R110). A text is a list of
characters. -/

namespace Sys2Proof.Machine

/-- Why a line is no CORE-1 assembly (R108; the names are the model's, log 10). -/
inductive AsmError where
  | unknownMnemonic
  | operandCount
  | badOperand
deriving DecidableEq, Repr

/-! ### Numbers and names -/

/-- The value of a digit in base 10 or 16, either letter case. -/
def digitValue (base : Nat) (c : Char) : Option Nat :=
  let n := c.toNat
  let v := if 48 ≤ n ∧ n ≤ 57 then n - 48 else if 97 ≤ n ∧ n ≤ 102 then n - 87 else if 65 ≤ n ∧ n ≤ 70 then n - 55 else 16
  if v < base then some v else none

/-- The value of a string of digits after those already read. -/
def digitsValue (base : Nat) : Nat → List Char → Option Nat
  | acc, [] => some acc
  | acc, c :: cs =>
    match digitValue base c with
    | some v => digitsValue base (base * acc + v) cs
    | none => none

/-- A decimal number: at least one digit (R108). -/
def readDecimal (cs : List Char) : Option Nat := if cs = [] then none else digitsValue 10 0 cs

/-- An operand value: a `0x` literal or a decimal number in 0..2^32-1 (R108). DESIGN CHOICE: a literal may have any number
of digits, leading zeros among them; R108 bounds only its value (log 10). -/
def readOperandWord (cs : List Char) : Option Word :=
  let v := match cs with
    | '0' :: 'x' :: c :: ds => digitsValue 16 0 (c :: ds)
    | ds => readDecimal ds
  match v with
  | some n => if n < 2 ^ 32 then some (BitVec.ofNat 32 n) else none
  | none => none

/-- An index below `n`, in decimal, or one of its alias names (R108). -/
def readIndex (n : Nat) (aliases : List String) (cs : List Char) : Option (Fin n) :=
  let v := match aliases.findIdx? fun a => a.toList == cs with
    | some k => some k
    | none => readDecimal cs
  match v with
  | some k => if h : k < n then some ⟨k, h⟩ else none
  | none => none

/-- An amount, in decimal, 0..255 (R108). -/
def readAmount (cs : List Char) : Option Nat :=
  match readDecimal cs with
  | some n => if n < 256 then some n else none
  | none => none

/-- The aliases of WR indexes: a to h (R108). -/
def aliasesWr : List String := ["a", "b", "c", "d", "e", "f", "g", "h"]

/-- The aliases of H indexes: H0 to H7 (R108). -/
def aliasesH : List String := ["H0", "H1", "H2", "H3", "H4", "H5", "H6", "H7"]

/-! ### Lines -/

/-- Splits at a separator. -/
def splitAtChar (sep : Char) : List Char → List (List Char)
  | [] => [[]]
  | c :: cs =>
    if c = sep then [] :: splitAtChar sep cs
    else
      match splitAtChar sep cs with
      | [] => [[c]]
      | p :: ps => (c :: p) :: ps

/-- Without the blanks at its two ends. -/
def trimBlanks (cs : List Char) : List Char :=
  ((cs.dropWhile (· = ' ')).reverse.dropWhile (· = ' ')).reverse

/-- The operands of a line: what stands between commas; none when nothing stands there. -/
def operandsOf (cs : List Char) : List (List Char) :=
  if trimBlanks cs = [] then [] else (splitAtChar ',' cs).map trimBlanks

/-- The commands without operand (R108). -/
def plainCommands : List (String × Instr) :=
  [ ("NOP", .nop), ("CLRERR", .clrerr), ("RDSTAT", .rdstat), ("EXPAND", .expand), ("COMPRESS", .compress),
    ("INIT", .init), ("HASHBLK", .hashblk) ]

/-- The commands with operand words only, and how many (R108). -/
def wordCommands : List (String × Nat × Instr) :=
  [ ("ADD", 2, .add), ("XOR", 2, .xor), ("CH", 3, .ch), ("MAJ", 3, .maj), ("USIG0", 1, .usig0), ("USIG1", 1, .usig1),
    ("LSIG0", 1, .lsig0), ("LSIG1", 1, .lsig1) ]

/-- Looks a name up in a table. -/
def lookupName {α : Type} (table : List (String × α)) (name : List Char) : Option α :=
  (table.find? fun e => e.1.toList == name).map fun e => e.2

/-- The words of operands, all of them readable. -/
def readWords (ops : List (List Char)) : Option (List Word) := ops.mapM readOperandWord

/-- A read operand, or the error of one that cannot be read. -/
def orBad {α : Type} (v : Option α) : Except AsmError α :=
  match v with
  | some x => .ok x
  | none => .error .badOperand

/-- The command that stands under a name with its operands (R108). -/
def readCommand (name : List Char) (ops : List (List Char)) : Except AsmError Line :=
  match lookupName plainCommands name with
  | some i => if ops = [] then .ok (Line.plain i) else .error .operandCount
  | none =>
    match lookupName wordCommands name with
    | some (n, i) =>
      if ops.length = n then
        (orBad (readWords ops)).map fun ws => ⟨i, ws.getD 0 0, ws.getD 1 0, ws.getD 2 0⟩
      else .error .operandCount
    | none =>
      match name, ops with
      | ['R', 'O', 'T', 'R'], [x, n] => do return Line.word (.rotr (← orBad (readAmount n))) (← orBad (readOperandWord x))
      | ['S', 'H', 'R'], [x, n] => do return Line.word (.shr (← orBad (readAmount n))) (← orBad (readOperandWord x))
      | ['L', 'D', 'W'], [i, x] => do return Line.word (.ldw (← orBad (readIndex 16 [] i))) (← orBad (readOperandWord x))
      | ['L', 'D', 'H'], [j, x] => do return Line.word (.ldh (← orBad (readIndex 8 aliasesH j))) (← orBad (readOperandWord x))
      | ['R', 'D', 'W'], [i] => do return Line.plain (.rdw (← orBad (readIndex 64 [] i)))
      | ['R', 'D', 'K'], [i] => do return Line.plain (.rdk (← orBad (readIndex 64 [] i)))
      | ['R', 'D', 'A'], [j] => do return Line.plain (.rda (← orBad (readIndex 8 aliasesWr j)))
      | ['R', 'D', 'H'], [j] => do return Line.plain (.rdh (← orBad (readIndex 8 aliasesH j)))
      | _, _ =>
        if ["ROTR", "SHR", "LDW", "LDH", "RDW", "RDK", "RDA", "RDH"].any fun m => m.toList == name then
          .error .operandCount
        else .error .unknownMnemonic

/-- A file of `n` words from the operands of a pseudo-instruction. -/
def readWordFile (n : Nat) (ops : List (List Char)) : Except AsmError (Vector Word n) :=
  if ops.length = n then (orBad (readWords ops)).map fun ws => Vector.ofFn fun i => ws.getD i.val 0
  else .error .operandCount

/-- The names of the pseudo-instructions (R110). -/
def pseudoNames : List String := ["LDBLK", "BLOCK", "SETH", "RDDIGEST", "SETRES", "ROTL", "CHKERR"]

/-- The pseudo-instruction that stands under a name, if one does (R110). -/
def readPseudo (name : List Char) (ops : List (List Char)) : Except AsmError Pseudo :=
  match pseudoNames.find? fun m => m.toList == name with
  | some "LDBLK" => (readWordFile 16 ops).map Pseudo.ldblk
  | some "BLOCK" => (readWordFile 16 ops).map Pseudo.block
  | some "SETH" => (readWordFile 8 ops).map Pseudo.seth
  | some "RDDIGEST" => if ops = [] then .ok .rddigest else .error .operandCount
  | some "CHKERR" => if ops = [] then .ok .chkerr else .error .operandCount
  | some "SETRES" =>
    match ops with
    | [v] => do return .setres (← orBad (readOperandWord v))
    | _ => .error .operandCount
  | some "ROTL" =>
    match ops with
    | [x, n] => do return .rotl (← orBad (readOperandWord x)) (← orBad (readDecimal n))
    | _ => .error .operandCount
  | _ => .error .unknownMnemonic

/-- One line of assembly, a command or a pseudo-instruction: mnemonic first, then its operands between commas (R108,
R110). -/
def assembleLine (cs : List Char) : Except AsmError (List Line) :=
  let body := trimBlanks cs
  let name := body.takeWhile (· ≠ ' ')
  let ops := operandsOf (body.drop name.length)
  match readPseudo name ops with
  | .ok p => .ok (expandPseudo p)
  | .error .unknownMnemonic => (readCommand name ops).map fun l => [l]
  | .error e => .error e

/-! ### The listing form (R109) -/

/-- A hex digit in capitals. -/
def hexCapital (v : BitVec 4) : Char := (hexChar v).toUpper

/-- The operand's 8 hex digits, or `-` for an unused one (R109). -/
def listingOperand (used : Bool) (v : Word) : List Char := if used then toHex v else ['-']

/-- A decimal number's text. -/
def decimalText (n : Nat) : List Char := Nat.toDigits 10 n

/-- An operand word's text, `0x` and 8 hex digits in capitals. -/
def wordText (v : Word) : List Char := '0' :: 'x' :: (toHex v).map Char.toUpper

/-- The mnemonic of a command, as R104 spells it. -/
def mnemonicText : Instr → String
  | .nop => "NOP" | .clrerr => "CLRERR" | .rdstat => "RDSTAT" | .add => "ADD" | .xor => "XOR" | .rotr _ => "ROTR"
  | .shr _ => "SHR" | .ch => "CH" | .maj => "MAJ" | .usig0 => "USIG0" | .usig1 => "USIG1" | .lsig0 => "LSIG0"
  | .lsig1 => "LSIG1" | .ldw _ => "LDW" | .rdw _ => "RDW" | .expand => "EXPAND" | .rdk _ => "RDK" | .rda _ => "RDA"
  | .compress => "COMPRESS" | .init => "INIT" | .ldh _ => "LDH" | .rdh _ => "RDH" | .hashblk => "HASHBLK"

/-- The operands of a line as its assembly text writes them (R108). DESIGN CHOICE: the listing shows the command that
was assembled, with decimal indexes, and keeps no alias and no pseudo-instruction; R109 is silent on it (log 10). -/
def operandTexts (l : Line) : List (List Char) :=
  match l.instr with
  | .nop | .clrerr | .rdstat | .expand | .compress | .init | .hashblk => []
  | .add | .xor => [wordText l.opa, wordText l.opb]
  | .rotr n | .shr n => [wordText l.opa, decimalText n]
  | .ch | .maj => [wordText l.opa, wordText l.opb, wordText l.opc]
  | .usig0 | .usig1 | .lsig0 | .lsig1 => [wordText l.opa]
  | .ldw i => [decimalText i, wordText l.opa]
  | .ldh j => [decimalText j, wordText l.opa]
  | .rdw i | .rdk i => [decimalText i]
  | .rda j | .rdh j => [decimalText j]

/-- The assembly text of a line: the mnemonic, then its operands between commas (R108). -/
def lineText (l : Line) : List Char :=
  match operandTexts l with
  | [] => (mnemonicText l.instr).toList
  | ops => (mnemonicText l.instr).toList ++ ' ' :: [',', ' '].intercalate ops

/-- A command word's text: four hex digits in capitals (R109; log 10). -/
def commandText (c : CmdWord) : List Char := (List.range 4).map fun k => hexCapital (c.extractLsb' (4 * (3 - k)) 4)

/-- The listing of a line: `<cmd as 4 hex digits> <opa> <opb> <opc>`, then the assembly text (R109). -/
def listingLine (l : Line) : List Char :=
  [' '].intercalate [commandText (encode l.instr), listingOperand (usesOpa l.instr) l.opa,
    listingOperand (usesOpb l.instr) l.opb, listingOperand (usesOpc l.instr) l.opc] ++ ' ' :: ' ' :: lineText l

/-- The listing of an illegal command word, which uses no operand (R106) and has no assembly text (R108). DESIGN CHOICE: R109
is silent on it, and the text is the one that program P4 of spec/95_test_vectors.md shows (log 10). -/
def illegalListingLine (c : CmdWord) : List Char :=
  commandText c ++ " - - -  (illegal word 0x".toList ++ commandText c ++ [')']

/-- The listing of a transaction, of a legal command or an illegal one (R109; log 10). -/
def transactionListing (tx : Transaction) : List Char :=
  match decode tx.cmd with
  | some i => listingLine ⟨i, tx.opa, tx.opb, tx.opc⟩
  | none => illegalListingLine tx.cmd

end Sys2Proof.Machine
end

