-- ==== Sys2Proof/Tests/Slice0.lean ====
section
/-! SUPPORT. Tests: ill-formed terms, words written from the encodings, one-command tests with the values of
spec/95_test_vectors.md, and a witness for every statement that has hypotheses. -/

namespace Sys2Proof.Machine.Tests

-- One theorem after another: each thread of a parallel check would claim a stack of its own.
set_option Elab.async false

/-! ### Helpers -/

/-- A result's next state. -/
def nextOf : Result → Option State
  | .next s => some s
  | .fault _ => none
  | .refused _ => none

/-- A result's fault. -/
def faultOf : Result → Option Fault
  | .next _ => none
  | .fault f => some f
  | .refused _ => none

/-- `reset` with the sampled transaction's operand words. -/
def withOps (opa opb opc : Word) : State := { State.reset with tx := ⟨0, opa, opb, opc⟩ }

/-- What a command leaves in RES, from `reset` with operand words. -/
def resOf (i : Instr) (opa opb opc : Word) : Option Word := (nextOf (exec i (withOps opa opb opc))).map fun s => s.res

/-- A view of a command's next state. -/
def after {α : Type} (i : Instr) (s : State) (view : State → α) : Option α := (nextOf (exec i s)).map view

/-- The words of the "abc" block (L2.4). -/
def abcWords : Vector Word 16 := #v[0x61626380, 0, 0, 0, 0, 0, 0, 0, 0, 0, 0, 0, 0, 0, 0, 0x18]

/-- The schedule of the "abc" block (the table of L2.4). -/
def abcSchedule : Vector Word 64 :=
  #v[0x61626380, 0x00000000, 0x00000000, 0x00000000, 0x00000000, 0x00000000, 0x00000000, 0x00000000,
    0x00000000, 0x00000000, 0x00000000, 0x00000000, 0x00000000, 0x00000000, 0x00000000, 0x00000018,
    0x61626380, 0x000f0000, 0x7da86405, 0x600003c6, 0x3e9d7b78, 0x0183fc00, 0x12dcbfdb, 0xe2e2c38e,
    0xc8215c1a, 0xb73679a2, 0xe5bc3909, 0x32663c5b, 0x9d209d67, 0xec8726cb, 0x702138a4, 0xd3b7973b,
    0x93f5997f, 0x3b68ba73, 0xaff4ffc1, 0xf10a5c62, 0x0a8b3996, 0x72af830a, 0x9409e33e, 0x24641522,
    0x9f47bf94, 0xf0a64f5a, 0x3e246a79, 0x27333ba3, 0x0c4763f2, 0x840abf27, 0x7a290d5d, 0x065c43da,
    0xfb3e89cb, 0xcc7617db, 0xb9e66c34, 0xa9993667, 0x84badedd, 0xc21462bc, 0x1487472c, 0xb20f7a99,
    0xef57b9cd, 0xebe6b238, 0x9fe3095e, 0x78bc8d4b, 0xa43fcf15, 0x668b2ff8, 0xeeaba2cc, 0x12b1edeb]

/-- `reset` with the "abc" block loaded. -/
def abcLoaded : State :=
  { State.reset with
    w := Vector.ofFn fun k => if k.val < 16 then some abcSchedule[k] else none
    status := { Status.reset with wvalid := 0xFFFF } }

/-- `abcLoaded` after EXPAND. -/
def abcExpanded : State :=
  { State.reset with w := written abcSchedule, status := { Status.reset with sv := true, wvalid := 0xFFFF } }

/-- `reset` with an error of code 1 recorded. -/
def erred : State := { State.reset with status := { Status.reset with err := true, ecode := 1 } }

/-- `reset` with a word that the Host presents at the next edge, and operand words. -/
def presenting (c : CmdWord) (opa : Word) (s : State) : State := { s with host := [Pins.present ⟨c, opa, 0, 0⟩] }

/-! ### Well-formed terms: each check refuses an ill-formed one -/

theorem test_wellFormed_rotr_refuses_256 : (Instr.rotr 256).wellFormed = false := by decide
theorem test_wellFormed_shr_refuses_256 : (Instr.shr 256).wellFormed = false := by decide
theorem test_wellFormed_amounts_to_255 : (Instr.rotr 255).wellFormed = true ∧ (Instr.shr 0).wellFormed = true := by
  decide

/-! ### Words written out from the encodings of R104 decode to their command -/

theorem test_decode_nop : decode 0b0000000000000000#16 = some .nop ∧ encode .nop = 0b0000000000000000#16 := by
  decide
theorem test_decode_clrerr : decode 0b0000000100000000#16 = some .clrerr ∧ encode .clrerr = 0b0000000100000000#16 := by
  decide
theorem test_decode_rdstat : decode 0b0000001000000000#16 = some .rdstat ∧ encode .rdstat = 0b0000001000000000#16 := by
  decide
theorem test_decode_add : decode 0b0001000000000000#16 = some .add ∧ encode .add = 0b0001000000000000#16 := by
  decide
theorem test_decode_xor : decode 0b0001000100000000#16 = some .xor ∧ encode .xor = 0b0001000100000000#16 := by
  decide
theorem test_decode_rotr : decode 0b0001001000001101#16 = some (.rotr 13) ∧ encode (.rotr 13) = 0b0001001000001101#16 := by
  decide
theorem test_decode_shr : decode 0b0001001111111111#16 = some (.shr 255) ∧ encode (.shr 255) = 0b0001001111111111#16 := by
  decide
theorem test_decode_ch : decode 0b0010000000000000#16 = some .ch ∧ encode .ch = 0b0010000000000000#16 := by
  decide
theorem test_decode_maj : decode 0b0010000100000000#16 = some .maj ∧ encode .maj = 0b0010000100000000#16 := by
  decide
theorem test_decode_usig0 : decode 0b0010001000000000#16 = some .usig0 ∧ encode .usig0 = 0b0010001000000000#16 := by
  decide
theorem test_decode_usig1 : decode 0b0010001100000000#16 = some .usig1 ∧ encode .usig1 = 0b0010001100000000#16 := by
  decide
theorem test_decode_lsig0 : decode 0b0010010000000000#16 = some .lsig0 ∧ encode .lsig0 = 0b0010010000000000#16 := by
  decide
theorem test_decode_lsig1 : decode 0b0010010100000000#16 = some .lsig1 ∧ encode .lsig1 = 0b0010010100000000#16 := by
  decide
theorem test_decode_ldw : decode 0b0011000000001001#16 = some (.ldw 9) ∧ encode (.ldw 9) = 0b0011000000001001#16 := by
  decide
theorem test_decode_rdw : decode 0b0011000100100110#16 = some (.rdw 38) ∧ encode (.rdw 38) = 0b0011000100100110#16 := by
  decide
theorem test_decode_expand : decode 0b0011001000000000#16 = some .expand ∧ encode .expand = 0b0011001000000000#16 := by
  decide
theorem test_decode_rdk : decode 0b0100000000011111#16 = some (.rdk 31) ∧ encode (.rdk 31) = 0b0100000000011111#16 := by
  decide
theorem test_decode_rda : decode 0b0100000100000100#16 = some (.rda 4) ∧ encode (.rda 4) = 0b0100000100000100#16 := by
  decide
theorem test_decode_compress : decode 0b0100001000000000#16 = some .compress ∧ encode .compress = 0b0100001000000000#16 := by
  decide
theorem test_decode_init : decode 0b0101000000000000#16 = some .init ∧ encode .init = 0b0101000000000000#16 := by
  decide
theorem test_decode_ldh : decode 0b0101000100000011#16 = some (.ldh 3) ∧ encode (.ldh 3) = 0b0101000100000011#16 := by
  decide
theorem test_decode_rdh : decode 0b0101001000000110#16 = some (.rdh 6) ∧ encode (.rdh 6) = 0b0101001000000110#16 := by
  decide
theorem test_decode_hashblk : decode 0b0101001100000000#16 = some .hashblk ∧ encode .hashblk = 0b0101001100000000#16 := by
  decide

/-- The illegal words of L2.7, one for each reason. -/
theorem test_decode_illegal :
    decode 0x0001#16 = none ∧ decode 0x0300#16 = none ∧ decode 0x1101#16 = none ∧ decode 0x1400#16 = none ∧
    decode 0x2600#16 = none ∧ decode 0x3010#16 = none ∧ decode 0x3140#16 = none ∧ decode 0x3300#16 = none ∧
    decode 0x4040#16 = none ∧ decode 0x4108#16 = none ∧ decode 0x4300#16 = none ∧ decode 0x5108#16 = none ∧
    decode 0x5400#16 = none ∧ decode 0x6000#16 = none ∧ decode 0xF000#16 = none ∧ decode 0xFFFF#16 = none := by
  decide +kernel

theorem test_decodeTableWord : decodeTableWord 16 0x1207 = some (.rotr 7) ∧ decodeTableWord 16 0x6000 = none := by
  decide +kernel

theorem test_withFetchWord_runs_the_word :
    (nextOf (step (State.reset.withFetchWord 16 0x403F))).map (fun s => s.res) = some 0xc67178f2 := by decide +kernel

/-! ### One command, values of spec/95_test_vectors.md -/

theorem test_nop : after .nop State.reset id = some State.reset := by decide +kernel
theorem test_clrerr : after .clrerr erred id = some State.reset := by decide +kernel
theorem test_rdstat : after .rdstat erred (fun s => s.res) = some 0x12 := by decide +kernel
theorem test_rdstat_wvalid_and_sv : after .rdstat abcExpanded (fun s => s.res) = some 0xffff0004 := by decide +kernel
theorem test_add_wraps : resOf .add 0xba0cf582 0xffffffff 0 = some 0xba0cf581 := by decide +kernel
theorem test_xor : resOf .xor 0xced413cc 0x7999da82 0 = some 0xb74dc94e := by decide +kernel
theorem test_rotr : resOf (.rotr 18) 0x6a09e667 0 0 = some 0x7999da82 := by decide +kernel
theorem test_rotr_amount_mod_32 : resOf (.rotr 32) 0x6a09e667 0 0 = some 0x6a09e667 ∧
    resOf (.rotr 255) 0x12345678 0 0 = some 0x2468acf0 := by decide +kernel
theorem test_shr : resOf (.shr 3) 0x6a09e667 0 0 = some 0x0d413ccc := by decide +kernel
theorem test_shr_by_32_is_zero : resOf (.shr 32) 0xffffffff 0 0 = some 0 ∧
    resOf (.shr 31) 0x80000000 0 0 = some 1 := by decide +kernel
theorem test_ch : resOf .ch 0x510e527f 0x9b05688c 0x1f83d9ab = some 0x1f85c98c := by decide +kernel
theorem test_maj : resOf .maj 0xf0f0f0f0 0xcccccccc 0xaaaaaaaa = some 0xe8e8e8e8 := by decide +kernel
theorem test_usig0 : resOf .usig0 0x6a09e667 0 0 = some 0xce20b47e ∧ resOf .usig0 1 0 0 = some 0x40080400 := by
  decide +kernel
theorem test_usig1 : resOf .usig1 0x510e527f 0 0 = some 0x3587272b ∧ resOf .usig1 0x80000000 0 0 = some 0x02100040 := by
  decide +kernel
theorem test_lsig0 : resOf .lsig0 0x6a09e667 0 0 = some 0xba0cf582 ∧ resOf .lsig0 0xffffffff 0 0 = some 0x1fffffff := by
  decide +kernel
theorem test_lsig1 : resOf .lsig1 0x12345678 0 0 = some 0xa1f78649 ∧ resOf .lsig1 0x80000000 0 0 = some 0x00205000 := by
  decide +kernel
theorem test_ldw : after (.ldw 0) (withOps 0x61626380 0 0) (fun s => (s.statusWord, s.w[0], s.w[1])) =
    some (0x00010000, some 0x61626380, none) := by decide +kernel
theorem test_ldw_makes_the_schedule_stale : after (.ldw 5) abcExpanded (fun s => s.statusWord) = some 0xffff0000 := by
  decide +kernel
theorem test_rdw : after (.rdw 63) abcExpanded (fun s => s.res) = some 0x12b1edeb := by decide +kernel
/-- The side case (5) of L2.4: the model faults, and the hardware goes on with STATUS as it was. -/
theorem test_rdw_unwritten : faultOf (exec (.rdw 16) abcLoaded) = some (.unwrittenRead (.w 16)) ∧
    (nextOf (hardwareExec (.rdw 16) abcLoaded)).map (fun t => (t.resValid, t.statusWord)) = some (true, 0xffff0000) := by
  decide +kernel
theorem test_expand : after .expand abcLoaded (fun s => (s.w, s.statusWord)) = some (written abcSchedule, 0xffff0004) := by
  decide +kernel
theorem test_expand_incomplete : after .expand State.reset (fun s => s.statusWord) = some 0x32 := by decide +kernel
theorem test_rdk : resOf (.rdk 0) 0 0 0 = some 0x428a2f98 ∧ resOf (.rdk 62) 0 0 0 = some 0xbef9a3f7 := by decide +kernel
theorem test_rda : after (.rda 4) { State.reset with wr := written ivRom } (fun s => s.res) = some 0x510e527f := by
  decide +kernel
/-- The model fault of RDA right after reset is the mark; the read completes with STATUS as it was. -/
theorem test_rda_after_reset : after (.rda 7) State.reset (fun t => (t.modelFault, t.resValid, t.statusWord)) =
    some (some (.wr 7), true, 0) := by
  decide +kernel
theorem test_compress : after .compress abcExpanded (fun s => (s.h, s.wr, s.statusWord)) =
    some (#v[0xba7816bf, 0x8f01cfea, 0x414140de, 0x5dae2223, 0xb00361a3, 0x96177a9c, 0xb410ff61, 0xf20015ad],
      written #v[0x506e3058, 0xd39a2165, 0x04d24d6c, 0xb85e2ce9, 0x5ef50f24, 0xfb121210, 0x948d25b6, 0x961f4894], 0) := by
  decide +kernel
theorem test_compress_after_reset : after .compress State.reset (fun s => s.statusWord) = some 0x22 := by decide +kernel
theorem test_init : after .init { State.reset with h := Vector.replicate 8 7 } id = some State.reset := by
  decide +kernel
theorem test_ldh : after (.ldh 3) (withOps 0xdeadbeef 0 0) (fun s => s.h) =
    some #v[0x6a09e667, 0xbb67ae85, 0x3c6ef372, 0xdeadbeef, 0x510e527f, 0x9b05688c, 0x1f83d9ab, 0x5be0cd19] := by
  decide +kernel
theorem test_rdh : resOf (.rdh 7) 0 0 0 = some 0x5be0cd19 := by decide +kernel
theorem test_hashblk : after .hashblk abcLoaded (fun s => (s.h, s.statusWord)) =
    some (#v[0xba7816bf, 0x8f01cfea, 0x414140de, 0x5dae2223, 0xb00361a3, 0x96177a9c, 0xb410ff61, 0xf20015ad], 0) := by
  decide +kernel
theorem test_hashblk_keeps_the_first_code : after .hashblk erred (fun s => s.statusWord) = some 0x12 := by
  decide +kernel

/-! ### The round function, the Host's duties, the assembler -/

/-- Round 0 of the "abc" block (L2.5). -/
theorem test_round_zero : roundFn ivRom 0x428a2f98 0x61626380 =
    #v[0x5d6aebcd, 0x6a09e667, 0xbb67ae85, 0x3c6ef372, 0xfa2a4622, 0x510e527f, 0x9b05688c, 0x1f83d9ab] := by
  decide +kernel

/-- The blocks of "abc" (L2.4). -/
theorem test_padding_abc : (padMessage [0x61, 0x62, 0x63]).toOption.map blocksOf = some [abcWords] := by decide +kernel

/-- 56 bytes need 511 zero bits, so a second block (L2.7). -/
theorem test_padding_boundary : zeroPadBytes 55 = 0 ∧ 7 + 8 * zeroPadBytes 56 = 511 ∧ 7 + 8 * zeroPadBytes 64 = 447 := by
  decide

theorem test_digest_text : digestText #v[0xba7816bf, 0x8f01cfea, 0x414140de, 0x5dae2223, 0xb00361a3, 0x96177a9c,
    0xb410ff61, 0xf20015ad] = "ba7816bf8f01cfea414140de5dae2223b00361a396177a9cb410ff61f20015ad".toList := by
  decide +kernel

theorem test_digest_bytes : (digestBytes ivRom).take 5 = [0x6a, 0x09, 0xe6, 0x67, 0xbb] := by decide +kernel

theorem test_host_refusals : wordOfInt (2 ^ 32) = .error .rangeError ∧ wordOfInt (2 ^ 32 - 1) = .ok 0xffffffff ∧
    wordOfSigned (-1) = .ok 0xffffffff ∧ wordOfSigned (-2 ^ 31 - 1) = .error .rangeError ∧
    wordOfBits [] = .error .emptyValueError ∧ wordOfBits [true, false] = .ok 2 := by decide +kernel

/-- The last line of program P1. -/
theorem test_assembler : (assembleLine "ROTL 0x6A09E667, 7".toList).toOption.map (fun ls => ls.map listingLine) =
    some ["1219 6a09e667 - -  ROTR 0x6A09E667, 25".toList] := by decide +kernel

/-- Lines 4 and 8 of program P4: an illegal word and a command. -/
theorem test_transaction_listing :
    transactionListing ⟨0x6000, 0, 0, 0⟩ = "6000 - - -  (illegal word 0x6000)".toList ∧
      transactionListing ⟨0x3000, 0x80000000, 0, 0⟩ = "3000 80000000 - -  LDW 0, 0x80000000".toList := by
  decide +kernel

theorem test_assembler_refuses : assembleLine "LDW 16, 0".toList = .error .badOperand ∧
    assembleLine "FROB 1".toList = .error .unknownMnemonic ∧ assembleLine "ADD 1".toList = .error .operandCount := by
  decide +kernel

/-- The first sub-step of EXPAND writes W[16] (the hand check of L2.4). -/
theorem test_first_sub_step : (nextOf (subStep (beginOp .expand abcLoaded))).map (fun s => (s.w[16], s.w[17], s.phase)) =
    some (some 0x61626380, none, .exp 17) := by decide +kernel

/-- In the first busy cycle of EXPAND: two sub-steps where the latency is 47, none where it is 49 (R294, R296). -/
theorem test_paced_sub_steps :
    ((nextOf (pacedWork 47 (beginOp .expand abcLoaded))).map fun s => (s.w[17], s.w[18])) =
        some (some 0x000f0000, none) ∧
      nextOf (pacedWork 49 (beginOp .expand abcLoaded)) = some (beginOp .expand abcLoaded) := by
  decide +kernel

/-! ### Reset and the interface -/

/-- The reset values of R50. -/
theorem test_reset : State.reset.h = #v[0x6a09e667, 0xbb67ae85, 0x3c6ef372, 0xa54ff53a, 0x510e527f, 0x9b05688c,
      0x1f83d9ab, 0x5be0cd19] ∧ State.reset.res = 0 ∧ State.reset.statusWord = 0 ∧ State.reset.w[63] = none ∧
    State.reset.wr[0] = none := by
  decide +kernel

/-- `rst_n = 0` in the middle of a command gives the reset state; `cmd_ready` is 0 while the Core is busy. -/
theorem test_reset_in_the_middle_of_a_command :
    nextOf (cycleEdge Pins.reset (beginOp .expand abcLoaded)) = some { State.reset with erased := [⟨abcLoaded.w, abcLoaded.wr⟩] } ∧
      cmdReady true (beginOp .expand abcLoaded) = false ∧ cmdReady true abcLoaded = true := by
  decide +kernel

/-- Right after a result command the pin `res_valid` is 1, and 0 while `rst_n = 0` (R288, U19). -/
theorem test_res_valid_pin :
    after (.rdk 0) State.reset (fun t => ((outputs true t).resValid, (outputs false t).resValid)) = some (true, false) ∧
      (outputs true State.reset).resValid = false := by
  decide +kernel

/-! ### Witnesses: for each statement with hypotheses, inputs that meet them all -/

theorem inv_abcLoaded : abcLoaded.Inv where
  idle := ⟨rfl, rfl⟩
  complete := by decide
  loaded := by decide +kernel
  expanded h := nomatch h
  code := by decide
  derived := .inl (by decide +kernel)
  working := .inl (by decide +kernel)

theorem abcSchedule_recurrence : ∀ t : Fin 64, 16 ≤ t.val →
    abcSchedule[t] = scheduleWord abcSchedule[t.val - 2] abcSchedule[t.val - 7] abcSchedule[t.val - 15]
      abcSchedule[t.val - 16] := by
  decide +kernel

theorem inv_abcExpanded : abcExpanded.Inv where
  idle := ⟨rfl, rfl⟩
  complete := by decide
  loaded := by decide +kernel
  expanded _ t h16 h :=
    ⟨_, _, _, _, written_getElem _ _ _, written_getElem _ _ _, written_getElem _ _ _, written_getElem _ _ _, by
      rw [show abcExpanded.w = written abcSchedule from rfl, written_getElem]
      exact congrArg some (abcSchedule_recurrence ⟨t, h⟩ h16)⟩
  code := by decide
  derived := .inr (by decide +kernel)
  working := .inl (by decide +kernel)

theorem witness_DecodeOfEncodeIsIdentity : (Instr.shr 255).wellFormed = true ∧ (Instr.rdw 63).wellFormed = true := by
  decide

theorem witness_DecodedWordIsItsEncoding : decode 0x12FF#16 = some (.rotr 255) := by decide +kernel

theorem witness_RotrRotatesEveryBit : 0 < 256 ∧ 255 < 256 := by decide

theorem witness_ShrShiftsEveryBit : 0 < 256 ∧ 255 < 256 := by decide

theorem witness_WordOperationLaws : 32 ≤ 32 ∧ 31 ≤ 31 := by decide

/-- An IMM8 value just outside each index field's range, and NOP's range of illegal words. -/
theorem witness_LdwLoadsOneMessageWord : 0x3010#16 &&& 0xFF00#16 = 0x3000#16 ∧ 0x3010#16 &&& 0x00F0#16 ≠ 0 := by decide

theorem witness_RdwReadsWordOrFaults_illegal : 0x3140#16 &&& 0xFF00#16 = 0x3100#16 ∧ 0x3140#16 &&& 0x00C0#16 ≠ 0 := by
  decide

theorem witness_RdkReadsRoundConstant : 0x4040#16 &&& 0xFF00#16 = 0x4000#16 ∧ 0x4040#16 &&& 0x00C0#16 ≠ 0 := by decide

theorem witness_RdaReadsWorkingRegister_illegal :
    0x4108#16 &&& 0xFF00#16 = 0x4100#16 ∧ 0x4108#16 &&& 0x00F8#16 ≠ 0 := by
  decide

theorem witness_LdhWritesOneChainingWord : 0x5108#16 &&& 0xFF00#16 = 0x5100#16 ∧ 0x5108#16 &&& 0x00F8#16 ≠ 0 := by decide

theorem witness_RdhReadsOneChainingWord : 0x5208#16 &&& 0xFF00#16 = 0x5200#16 ∧ 0x5208#16 &&& 0x00F8#16 ≠ 0 := by decide

theorem witness_NopAndClrerrEffects : 0x0001#16 ≤ 0x0001#16 ∧ 0x00FF#16 ≤ 0x00FF#16 := by decide

theorem witness_RdwReadsWordOrFaults : abcExpanded.w[63] = some 0x12b1edeb#32 ∧ abcLoaded.w[0] = some 0x61626380#32 ∧
    abcLoaded.w[16] = none := by
  decide +kernel

theorem witness_ExpandFollowsRecurrence : IsExpansion abcWords abcSchedule := by
  have all : ∀ i : Fin 16, abcSchedule[i.val] = abcWords[i] := by decide +kernel
  exact ⟨fun t h => all ⟨t, h⟩, fun t h16 h => abcSchedule_recurrence ⟨t, h⟩ h16⟩

/-- Both branches of EXPAND and of HASHBLK. -/
theorem witness_ExpandCommandFillsSchedule_and_HashblkExpandsAndCompresses : State.reset.status.wvalid ≠ 0xFFFF#16 ∧
    abcLoaded.status.wvalid = 0xFFFF#16 ∧ ∀ i : Fin 16, abcLoaded.w[i.val] = some abcWords[i] := by
  decide +kernel

theorem witness_RdaReadsWorkingRegister :
    ({ State.reset with wr := written ivRom } : State).wr[7] = some 0x5be0cd19#32 ∧ State.reset.wr[0] = none := by
  decide +kernel

theorem witness_CompressRunsRoundsAndFolds : State.reset.status.sv = false ∧ abcExpanded.status.sv = true ∧
    ∀ i : Fin 64, abcExpanded.w[i] = some abcSchedule[i] := by
  decide +kernel

theorem witness_HashblkEqualsExpandThenCompress :
    abcLoaded.Inv ∧ abcLoaded.status.wvalid = 0xFFFF#16 ∧ abcExpanded.Inv ∧ abcExpanded.status.sv = true :=
  ⟨inv_abcLoaded, rfl, inv_abcExpanded, rfl⟩

theorem witness_HashblkEqualsExpandThenCompress_incomplete :
    { abcLoaded with status := Status.reset }.Inv ∧ { abcLoaded with status := Status.reset }.status.wvalid ≠ 0xFFFF#16 :=
  ⟨{ inv_abcLoaded with
      complete := nofun, loaded := by decide +kernel, expanded := nofun, code := ⟨fun _ => rfl, nofun⟩ }, by decide⟩

theorem witness_IllegalWordRaisesCodeOne :
    (presenting 0x4040 0 abcLoaded).host = [Pins.present ⟨0x4040, 0, 0, 0⟩] ∧
      (presenting 0x4040 0 abcLoaded).phase = .idle ∧ (Pins.present ⟨0x4040, 0, 0, 0⟩).rstN = true ∧
      (Pins.present ⟨0x4040, 0, 0, 0⟩).cmdValid = true ∧ decode 0x4040#16 = none := by
  decide +kernel

/-- Each code that a command can record is recorded. -/
theorem witness_OnlySequencingChecksRaiseErrors :
    after .compress State.reset (fun t => (t.status.err, t.status.ecode)) = some (true, 2) ∧
      after .expand State.reset (fun t => (t.status.err, t.status.ecode)) = some (true, 3) ∧
      after .hashblk State.reset (fun t => (t.status.err, t.status.ecode)) = some (true, 3) := by
  decide +kernel

theorem witness_FirstErrorCodeIsKept : after .compress erred (fun t => (erred.status.err, t.status.ecode)) =
    some (true, 1) := by
  decide +kernel

/-- Each file changes under some command. -/
theorem witness_OnlyNamedCommandsWriteStorage :
    after (.ldh 7) State.reset (fun t => decide (t.h ≠ State.reset.h)) = some true ∧
      after .compress abcExpanded (fun t => decide (t.wr ≠ abcExpanded.wr)) = some true ∧
      after .expand abcLoaded (fun t => decide (t.w[16] ≠ abcLoaded.w[16])) = some true ∧
      after (.ldw 15) State.reset (fun t => decide (t.w[15] ≠ State.reset.w[15])) = some true ∧
      after (.rdk 0) State.reset (fun t => decide (t.res ≠ State.reset.res)) = some true ∧
      after (.rda 0) State.reset (fun t => decide (t.modelFault ≠ State.reset.modelFault)) = some true := by
  decide +kernel

/-- A read and a load of each kind answer a next state; a mark stays the first. -/
theorem witness_RepeatedCommandChangesNothingMore :
    after (.rdw 63) abcExpanded (fun t => t.res) = some 0x12b1edeb ∧
      after (.rda 4) { State.reset with wr := written ivRom } (fun t => t.res) = some 0x510e527f ∧
      after (.rda 0) { State.reset with modelFault := some (.wr 7) } (fun t => t.modelFault) = some (some (.wr 7)) ∧
      after .rdstat erred (fun t => t.res) = some 0x12 ∧
      after (.ldw 15) (withOps 7 0 0) (fun t => t.w[15]) = some (some 7) ∧
      after (.ldh 0) (withOps 7 0 0) (fun t => t.h[0]) = some 7 := by
  decide +kernel

/-- Each status field that the statement speaks of changes under some command. -/
theorem witness_OnlyNamedCommandsChangeStatus :
    after .expand abcLoaded (fun t => (abcLoaded.status.sv, t.status.sv)) = some (false, true) ∧
      after (.ldw 0) abcExpanded (fun t => (abcExpanded.status.sv, t.status.sv)) = some (true, false) ∧
      after (.ldw 15) State.reset (fun t => t.status.wvalid.getLsbD 15) = some true ∧
      after .compress abcExpanded (fun t => (abcExpanded.status.wvalid.getLsbD 0, t.status.wvalid.getLsbD 0)) =
        some (true, false) ∧
      after .clrerr erred (fun t => (erred.status.err, t.status.err, t.status.ecode)) = some (true, false, 0) ∧
      after .compress State.reset (fun t => (State.reset.status.err, t.status.err, t.status.ecode)) =
        some (false, true, 2) := by
  decide +kernel

theorem witness_UnusedOperandsHaveNoEffect :
    agreeOnUsed (.rotr 1) (withOps 5 6 7) (withOps 5 0 0) ∧ agreeOnUsed .nop (withOps 5 6 7) (withOps 0 0 0) ∧
      nextOf (exec (.rotr 1) (withOps 5 6 7)) ≠ none ∧ agreeOnUsed (.rdw 0) (withOps 5 6 7) (withOps 0 0 0) ∧
      faultOf (exec (.rdw 0) (withOps 5 6 7)) ≠ none := by
  unfold agreeOnUsed
  decide +kernel

theorem witness_StepRunsDecodedCommand :
    (presenting 0x5103 0xdeadbeef erred).host = Pins.present ⟨0x5103, 0xdeadbeef, 0, 0⟩ :: [] ∧
      (presenting 0x5103 0xdeadbeef erred).phase = .idle ∧ decode 0x5103#16 = some (.ldh 3) := by
  decide +kernel

theorem witness_StepWithoutCommandKeepsState : State.reset.host = [] ∧ State.reset.phase = .idle ∧
    { State.reset with host := [Pins.quiet] }.host = Pins.quiet :: [] ∧ Pins.quiet.rstN = true ∧
    Pins.quiet.cmdValid = false := by
  decide +kernel

theorem witness_ResetAbandonsAnyCommand : Pins.reset.rstN = false ∧ (beginOp .hashblk abcLoaded).phase ≠ .idle := by
  decide +kernel

/-- Nothing presented to an idle Core, and a command presented to a busy one. -/
theorem witness_IgnoredPinsHaveNoEffect :
    accepts Pins.quiet State.reset = false ∧ accepts ⟨true, false, ⟨0x5000, 1, 2, 3⟩⟩ State.reset = false ∧
      accepts (Pins.present ⟨0x5000, 1, 2, 3⟩) (beginOp .expand abcLoaded) = false := by
  decide +kernel

/-- Each clause, at the transaction level. -/
theorem witness_ResultPulsesForOneCycle :
    (nextOf (transactEdge (Pins.present ⟨0x5203, 0, 0, 0⟩) State.reset)).map (fun t => t.resValid) = some true ∧
      (nextOf (transactEdge (Pins.present ⟨0x6000, 0, 0, 0⟩) State.reset)).map (fun t => t.resValid) = some false ∧
      accepts Pins.quiet abcLoaded = false ∧ nextOf (transactEdge Pins.quiet abcLoaded) ≠ none ∧
      nextOf (transactEdge Pins.reset abcLoaded) ≠ none := by
  decide +kernel

/-- Each clause, at the cycle level, at the accept edge of a multi-cycle command and in a busy cycle too. -/
theorem witness_ResultPulsesForOneCycle_cycle :
    (nextOf (cycleEdge (Pins.present ⟨0x5203, 0, 0, 0⟩) State.reset)).map (fun t => t.resValid) = some true ∧
      (nextOf (cycleEdge (Pins.present ⟨0x3200, 0, 0, 0⟩) abcLoaded)).map (fun t => t.resValid) = some false ∧
      (nextOf (cycleEdge (Pins.present ⟨0x6000, 0, 0, 0⟩) State.reset)).map (fun t => t.resValid) = some false ∧
      accepts Pins.quiet (beginOp .expand abcLoaded) = false ∧
      nextOf (cycleEdge Pins.quiet (beginOp .expand abcLoaded)) ≠ none ∧
      nextOf (cycleEdge Pins.reset (beginOp .expand abcLoaded)) ≠ none := by
  decide +kernel

theorem witness_EveryStepKeepsInvariant :
    abcExpanded.Inv ∧ step abcExpanded = .next { abcExpanded with resValid := false } := ⟨inv_abcExpanded, rfl⟩

/-- A state of the invariant whose next step faults, and a run that has faulted. -/
theorem witness_StepFaultsOnlyOnUnwrittenRead : abcLoaded.Inv ∧
    faultOf (step (presenting 0x3110 0 abcLoaded)) = some (.unwrittenRead (.w 16)) ∧
    Sys2Proof.core.run 1 (presenting 0x3110 0 abcLoaded) = .fault (.unwrittenRead (.w 16)) :=
  ⟨inv_abcLoaded, by decide +kernel, rfl⟩

/-- Each clause. -/
theorem witness_HardwareReturnsSomeWordWhereModelFaults : abcLoaded.Inv ∧
    (nextOf (transactEdge (Pins.present ⟨0x310F, 0, 0, 0⟩) abcLoaded)).map (fun t => t.res) = some 0x18 ∧
    faultOf (transactEdge (Pins.present ⟨0x313F, 0, 0, 0⟩) abcLoaded) = some (.unwrittenRead (.w 63)) :=
  ⟨inv_abcLoaded, by decide +kernel, by decide +kernel⟩

/-- The three latencies, an errored command and a single-cycle one. -/
theorem witness_SubStepsRefineAtomicCommand : abcLoaded.Inv ∧ abcExpanded.Inv ∧
    busyCycles .nominal .expand abcLoaded = 48 ∧ busyCycles .nominal .compress abcExpanded = 66 ∧ busyCycles .nominal .hashblk abcLoaded = 114 ∧
    busyCycles .nominal .compress abcLoaded = 0 ∧ busyCycles .nominal .add abcLoaded = 0 ∧ decode 0x5300#16 = some .hashblk ∧
    ∀ q ∈ List.replicate 114 Pins.quiet, q.rstN = true :=
  ⟨inv_abcLoaded, inv_abcExpanded, by decide +kernel, by decide +kernel, by decide +kernel, by decide +kernel,
    by decide +kernel, by decide +kernel, by simp [Pins.quiet]⟩

theorem witness_BusyUntilLastEffect : abcLoaded.Inv ∧ decode 0x3200#16 = some .expand ∧ multiCycleOp .expand ≠ none ∧
    ([] : List Pins).length ≤ busyCycles .nominal .expand abcLoaded ∧
    (List.replicate 48 Pins.quiet).length = busyCycles .nominal .expand abcLoaded :=
  ⟨inv_abcLoaded, by decide +kernel, by decide, by decide +kernel, by decide +kernel⟩

/-- Legal latencies other than the nominal ones: the least of each. -/
theorem legal_least : Latencies.legal ⟨1, 1, 1, 66⟩ := by
  unfold Latencies.legal
  decide

theorem witness_EveryLatencyRefinesAtomicCommand :
    Latencies.legal ⟨1, 1, 1, 66⟩ ∧ Latencies.nominal.legal ∧ abcLoaded.Inv ∧ decode 0x5300#16 = some .hashblk ∧
      (List.replicate 66 Pins.quiet).length = busyCycles ⟨1, 1, 1, 66⟩ .hashblk abcLoaded ∧
      ([] : List Pins).length = busyCycles ⟨1, 1, 1, 66⟩ .compress abcLoaded :=
  ⟨legal_least, by unfold Latencies.legal; decide, inv_abcLoaded, by decide +kernel, by decide +kernel,
    by decide +kernel⟩

theorem witness_BusyForTheLatency :
    Latencies.legal ⟨1, 1, 1, 66⟩ ∧ abcLoaded.Inv ∧ decode 0x3200#16 = some .expand ∧ multiCycleOp .expand ≠ none ∧
      ([] : List Pins).length ≤ busyCycles ⟨1, 1, 1, 66⟩ .expand abcLoaded ∧
      [Pins.quiet].length = busyCycles ⟨1, 1, 1, 66⟩ .expand abcLoaded :=
  ⟨legal_least, inv_abcLoaded, by decide +kernel, by decide, by decide +kernel, by decide +kernel⟩

theorem witness_NominalLatenciesTakeOnePhaseACycle : State.reset.phase = .idle := rfl

theorem witness_MessageWordsAreBigEndian : (List.replicate 64 (0 : Byte)).length = 64 := List.length_replicate

theorem witness_DigestTextIsFaithful : digestText ivRom = digestText State.reset.h := rfl

/-- The empty message, the longest legal one, and the shortest that is too long. -/
theorem witness_PaddingFillsWholeBlocks : 8 * ([] : List Byte).length < 2 ^ 64 ∧
    8 * (List.replicate (2 ^ 61 - 1) (0 : Byte)).length < 2 ^ 64 ∧ 2 ^ 64 ≤ 8 * (List.replicate (2 ^ 61) (0 : Byte)).length := by
  simp only [List.length_replicate, List.length_nil]
  decide

/-- `abcLoaded` with the Host's drive of the one-block message. -/
def drivingAbc (mode : BlockMode) : State := { abcLoaded with host := driveOf (messageLines mode [abcWords]) }

theorem witness_ProtocolChainsBlocks (mode : BlockMode) :
    (drivingAbc mode).Inv ∧ (drivingAbc mode).host = driveOf (messageLines mode [abcWords]) ++ [] :=
  ⟨{ inv_abcLoaded with }, (List.append_nil _).symm⟩

theorem witness_ProtocolChainsBlocks_separate : (drivingAbc .separate).Inv := (witness_ProtocolChainsBlocks _).1

theorem witness_ProtocolChainsBlocks_combined : (drivingAbc .combined).Inv := (witness_ProtocolChainsBlocks _).1

end Sys2Proof.Machine.Tests
end

section
/-! SUPPORT. The sequencer's sub-steps: what one can do, and the path of every multi-cycle command through them to the
answer of the atomic command (R166, R188, R213). -/

namespace Sys2Proof.Machine

/-! ### Runs of sub-steps -/

@[simp] theorem andThen_return {σ : Type} (r : Host.Outcome σ Fault Refusal) : andThen r .next = r := by
  cases r <;> rfl

theorem subSteps_one (s : State) : subSteps 1 s = subStep s := andThen_return _

/-- A path of states, each the sub-step of the one before, is a run of sub-steps. -/
theorem subSteps_of_path (f : Nat → State) (n : Nat) (h : ∀ k < n, subStep (f k) = .next (f (k + 1))) :
    subSteps n (f 0) = .next (f n) := by
  induction n with
  | zero => rfl
  | succ n ih =>
    rw [subSteps_add, ih fun k hk => h k (Nat.lt_succ_of_lt hk), andThen_next, subSteps_one, h n n.lt_succ_self]

/-! ### What one sub-step can do -/

/-- What the next state of a sub-step can be, by the phase it is made in (R166, R188). -/
inductive SubStepCase (s t : State) : Prop
  | idle (hp : s.phase = .idle) (ht : t = s)
  | exp (k : Fin 64) (v : Word) (hp : s.phase = .exp k) (hk : k ≠ 63) (hv : readScheduleWord k s = .ok v)
      (ht : t = { s with w := s.w.set k (some v), phase := .exp (k + 1) })
  | lastExp (v : Word) (hp : s.phase = .exp 63) (hv : readScheduleWord 63 s = .ok v)
      (ht : t = afterExpansion { s with w := s.w.set 63 (some v) })
  | load (hp : s.phase = .load) (ht : t = { s with wr := written s.h, phase := .rnd 0 })
  | rnd (r : Fin 64) (v : Word) (hp : s.phase = .rnd r) (hv : readW r s = .ok v)
      (ht : t = { s with
        wr := written (roundFn (readWorking s) kRom[r] v)
        phase := if r = 63 then .fold else .rnd (r + 1) })
  | fold (hp : s.phase = .fold)
      (ht : t = finishOp { s with h := foldState s.h (readWorking s), status := s.status.blockConsumed })

/-- Every next state of a sub-step is one of the cases. -/
theorem subStep_cases {s t : State} (h : subStep s = .next t) : SubStepCase s t := by
  cases hp : s.phase with
  | idle => rw [subStep_idle s hp] at h; cases h; exact .idle hp rfl
  | exp k =>
    simp only [subStep, hp, subStepExp] at h
    cases hv : readScheduleWord k s with
    | error f => rw [hv] at h; cases h
    | ok v =>
      rw [hv] at h
      by_cases hk : k = 63
      · subst hk
        exact .lastExp v hp hv (Host.Outcome.next.inj h).symm
      · simp only [if_neg hk] at h
        exact .exp k v hp hk hv (Host.Outcome.next.inj h).symm
  | load => simp only [subStep, hp, subStepLoad] at h; exact .load hp (Host.Outcome.next.inj h).symm
  | rnd r =>
    simp only [subStep, hp, subStepRnd] at h
    cases hv : readW r s with
    | error f => rw [hv] at h; cases h
    | ok v => rw [hv] at h; exact .rnd r v hp hv (Host.Outcome.next.inj h).symm
  | fold => simp only [subStep, hp, subStepFold] at h; exact .fold hp (Host.Outcome.next.inj h).symm

/-- The end of an expansion keeps RES and the level of `res_valid` (R37, R288). -/
theorem afterExpansion_result (s : State) :
    (afterExpansion s).res = s.res ∧ (afterExpansion s).resValid = s.resValid := by
  rcases ho : s.op with _ | _ | _ | _ <;> simp [afterExpansion, ho]

/-- No sub-step writes RES or pulses `res_valid` (R37, R288). -/
theorem subStep_result {s t : State} (h : subStep s = .next t) : t.res = s.res ∧ t.resValid = s.resValid := by
  cases subStep_cases h with
  | lastExp v _ _ ht => subst ht; exact afterExpansion_result _
  | idle _ ht => subst ht; exact ⟨rfl, rfl⟩
  | exp k v _ _ _ ht => subst ht; exact ⟨rfl, rfl⟩
  | load _ ht => subst ht; exact ⟨rfl, rfl⟩
  | rnd r v _ _ ht => subst ht; exact ⟨rfl, rfl⟩
  | fold _ ht => subst ht; exact ⟨rfl, rfl⟩

/-- Sub-steps are left exactly while the Core is busy (R39, R49). -/
theorem subStepsLeft_eq_zero_iff (s : State) : subStepsLeft s = 0 ↔ s.phase = .idle := by
  cases hp : s.phase <;> simp [subStepsLeft, hp] <;> omega

/-- After EXP(63) HASHBLK goes on to LOAD and 64 rounds, and every other command is complete (R166, R213). -/
theorem subStepsLeft_afterExpansion (s : State) :
    subStepsLeft (afterExpansion s) = if s.op = some .hashblk then 66 else 0 := by
  rcases ho : s.op with _ | _ | _ | _ <;> simp [afterExpansion, ho, subStepsLeft]

/-- Before the last one, the index of the next pass is the successor. -/
theorem val_add_one_of_ne_last {k : Fin 64} (hk : k ≠ 63) : (k + 1).val = k.val + 1 :=
  Fin.val_add_one_of_lt (Fin.lt_last_iff_ne_last.mpr hk)

/-- A sub-step of a busy Core leaves one fewer (R166, R188, R213). -/
theorem subStepsLeft_subStep {s t : State} (h : subStep s = .next t) : subStepsLeft t = subStepsLeft s - 1 := by
  cases subStep_cases h with
  | idle hp ht => subst ht; simp [subStepsLeft, hp]
  | exp k v hp hk _ ht =>
    subst ht
    have := val_add_one_of_ne_last hk
    simp only [subStepsLeft, hp, this]
    omega
  | lastExp v hp _ ht =>
    subst ht
    rw [subStepsLeft_afterExpansion]
    simp [subStepsLeft, hp]
  | load hp ht => subst ht; simp [subStepsLeft, hp]
  | rnd r v hp _ ht =>
    subst ht
    by_cases hr : r = 63
    · simp [subStepsLeft, hp, hr]
    · simp only [subStepsLeft, hp, if_neg hr, val_add_one_of_ne_last hr]
      omega
  | fold hp ht => subst ht; simp [subStepsLeft, hp]

/-- What `n` sub-steps leave of the work, and that they keep RES and the level of `res_valid`. -/
theorem subSteps_frame {n : Nat} {s t : State} (h : subSteps n s = .next t) :
    subStepsLeft t = subStepsLeft s - n ∧ t.res = s.res ∧ t.resValid = s.resValid := by
  induction n generalizing s with
  | zero => cases h; exact ⟨rfl, rfl, rfl⟩
  | succ n ih =>
    obtain ⟨u, hu, ht⟩ := (andThen_eq_next _ _ _).mp h
    obtain ⟨hleft, hres, hvalid⟩ := ih ht
    obtain ⟨hres', hvalid'⟩ := subStep_result hu
    rw [subStepsLeft_subStep hu] at hleft
    exact ⟨by omega, hres.trans hres', hvalid.trans hvalid'⟩

/-! ### The path through the expansion (R165, R166) -/

/-- The schedule after the first `n` passes of the loop of R165. -/
def expandPasses (m : Vector Word 16) (n : Nat) : Vector Word 64 :=
  (List.range n).foldl (fun S k => expandStep S (Fin.ofNat 64 (16 + k))) (messagePart m)

theorem expandPasses_zero (m : Vector Word 16) : expandPasses m 0 = messagePart m := rfl

theorem expandPasses_succ (m : Vector Word 16) (n : Nat) :
    expandPasses m (n + 1) = expandStep (expandPasses m n) (Fin.ofNat 64 (16 + n)) := by
  simp only [expandPasses, List.range_succ, List.foldl_append, List.foldl_cons, List.foldl_nil]

theorem expand_eq_expandPasses (m : Vector Word 16) : expand m = expandPasses m 48 := by
  unfold expand
  rw [expandIndices, List.foldl_map, expandPasses]

/-- Pass `n` writes entry `16 + n` and leaves the rest (R165). -/
theorem expandPasses_succ_getElem (m : Vector Word 16) (n : Nat) (hn : n < 48) (k : Nat) (hk : k < 64) :
    (expandPasses m (n + 1))[k] =
      if k = 16 + n then scheduleWord (expandPasses m n)[16 + n - 2] (expandPasses m n)[16 + n - 7]
        (expandPasses m n)[16 + n - 15] (expandPasses m n)[16 + n - 16]
      else (expandPasses m n)[k] := by
  rw [expandPasses_succ, expandIndex n hn, expandStep_getElem _ _ (by omega)]

/-- The loop keeps the message words (R165). -/
theorem expandPasses_message (m : Vector Word 16) (n : Nat) (hn : n ≤ 48) (k : Nat) (hk : k < 16) :
    (expandPasses m n)[k] = m[k] := by
  induction n with
  | zero => simp [expandPasses_zero, messagePart, hk]
  | succ n ih => rw [expandPasses_succ_getElem m n (by omega), if_neg (by omega), ih (by omega)]

/-- A schedule memory whose entries below `n` hold the words of `S`, and the others what `w` holds. -/
def scheduleBelow (n : Nat) (S : Vector Word 64) (w : Vector (Option Word) 64) : Vector (Option Word) 64 :=
  Vector.ofFn fun k => if k.val < n then some S[k] else w[k]

theorem scheduleBelow_getElem (n : Nat) (S : Vector Word 64) (w : Vector (Option Word) 64) (k : Nat) (hk : k < 64) :
    (scheduleBelow n S w)[k] = if k < n then some S[k] else w[k] := by
  simp [scheduleBelow]

/-- The state of the command `o` in the phase EXP(16 + n), for the message words `m` (R166). -/
def expanding (o : SeqOp) (m : Vector Word 16) (s : State) (n : Nat) : State :=
  { beginOp o s with
    phase := .exp (Fin.ofNat 64 (16 + n))
    w := scheduleBelow (16 + n) (expandPasses m n) s.w }

section Expansion

variable (o : SeqOp) (m : Vector Word 16) (s : State)

/-- Before the first pass nothing is written: the state is that of the accept edge. -/
theorem expanding_zero (ho : firstPhase o = .exp 16) (hm : ∀ i : Fin 16, s.w[i.val] = some m[i]) :
    expanding o m s 0 = beginOp o s := by
  have hw : scheduleBelow 16 (expandPasses m 0) s.w = s.w := by
    ext k hk : 1
    rw [scheduleBelow_getElem]
    split
    next h => rw [expandPasses_message m 0 (by omega) k h]; exact (hm ⟨k, h⟩).symm
    next => rfl
  simp only [expanding, beginOp, ho, Nat.add_zero, hw]
  rfl

/-- The word that EXP(16 + n) writes is that of pass `n` of the loop (R165, R166). -/
theorem readScheduleWord_expanding (n : Nat) (hn : n < 48) :
    readScheduleWord (Fin.ofNat 64 (16 + n)) (expanding o m s n) = .ok (expandPasses m (n + 1))[16 + n] := by
  have read (d : Nat) (hd : d ≤ 16) (hd0 : 0 < d) :
      readW (Fin.ofNat 64 (16 + n) - Fin.ofNat 64 d) (expanding o m s n) = .ok (expandPasses m n)[16 + n - d] := by
    rw [expandIndex n hn, scheduleIndex_sub _ d hd (by omega)]
    apply readW_some
    simp only [expanding, Fin.getElem_fin]
    rw [scheduleBelow_getElem, if_pos (by omega)]
  have r2 : readW (Fin.ofNat 64 (16 + n) - 2) (expanding o m s n) = _ := read 2 (by omega) (by omega)
  have r7 : readW (Fin.ofNat 64 (16 + n) - 7) (expanding o m s n) = _ := read 7 (by omega) (by omega)
  have r15 : readW (Fin.ofNat 64 (16 + n) - 15) (expanding o m s n) = _ := read 15 (by omega) (by omega)
  have r16 : readW (Fin.ofNat 64 (16 + n) - 16) (expanding o m s n) = _ := read 16 (by omega) (by omega)
  rw [expandPasses_succ_getElem m n hn, if_pos rfl, readScheduleWord, r2, r7, r15, r16]
  rfl

/-- Writing W[16 + n] takes the memory to the next pass. -/
theorem scheduleBelow_set (w : Vector (Option Word) 64) (n : Nat) (hn : n < 48) :
    (scheduleBelow (16 + n) (expandPasses m n) w).set (16 + n) (some (expandPasses m (n + 1))[16 + n]) =
      scheduleBelow (16 + (n + 1)) (expandPasses m (n + 1)) w := by
  ext k hk : 1
  rw [Vector.getElem_set, scheduleBelow_getElem, scheduleBelow_getElem]
  by_cases hkn : 16 + n = k
  · subst hkn; simp
  · rw [if_neg hkn, expandPasses_succ_getElem m n hn k hk, if_neg (Ne.symm hkn)]
    exact if_congr (by omega) rfl rfl

/-- EXP(16 + n) before the last one: the memory and the phase of the next pass (R166). -/
theorem subStep_expanding (n : Nat) (hn : n < 47) :
    subStep (expanding o m s n) = .next (expanding o m s (n + 1)) := by
  have hlast : (⟨16 + n, by omega⟩ : Fin 64) ≠ 63 := Fin.ne_of_val_ne (show 16 + n ≠ 63 by omega)
  have hnext : (⟨16 + n, by omega⟩ : Fin 64) + 1 = Fin.ofNat 64 (16 + (n + 1)) := by
    rw [expandIndex (n + 1) (by omega)]
    exact Fin.ext (val_add_one_of_ne_last hlast)
  have hv := readScheduleWord_expanding o m s n (by omega)
  have hw := scheduleBelow_set m s.w n (by omega)
  have hp : (expanding o m s n).phase = .exp ⟨16 + n, by omega⟩ := congrArg Phase.exp (expandIndex n (by omega))
  rw [expandIndex n (by omega)] at hv
  simp only [subStep, hp, subStepExp, hv, if_neg hlast, hnext]
  simp only [expanding, hw]

/-- The whole memory after the last pass is that of the atomic command (R164, R213). -/
theorem scheduleBelow_full (w : Vector (Option Word) 64) (hm : ∀ i : Fin 16, w[i.val] = some m[i]) :
    scheduleBelow 64 (expandPasses m 48) w = storeSchedule (expand m) w := by
  ext k hk : 1
  rw [scheduleBelow_getElem, storeSchedule_getElem, if_pos hk, ← expand_eq_expandPasses]
  split
  next h => rw [expand_eq_expandPasses, expandPasses_message m 48 le_rfl k h]; exact (hm ⟨k, h⟩).symm
  next => rfl

/-- EXP(63): the whole schedule is in the memory, and the expansion ends (R166). -/
theorem subStep_expanding_last (hm : ∀ i : Fin 16, s.w[i.val] = some m[i]) :
    subStep (expanding o m s 47) =
      .next (afterExpansion { beginOp o s with w := storeSchedule (expand m) s.w }) := by
  have hv : readScheduleWord 63 (expanding o m s 47) = _ := readScheduleWord_expanding o m s 47 (by omega)
  have hw : (expanding o m s 47).w.set (63 : Fin 64) (some (expandPasses m 48)[63]) = _ :=
    scheduleBelow_set m s.w 47 (by omega)
  have hp : (expanding o m s 47).phase = .exp 63 := rfl
  simp only [subStep, hp, subStepExp, hv, if_true]
  rw [hw, scheduleBelow_full m s.w hm]
  cases o <;> rfl

/-- The 48 sub-steps of an expansion (R166). -/
theorem subSteps_expansion (ho : firstPhase o = .exp 16) (hm : ∀ i : Fin 16, s.w[i.val] = some m[i]) :
    subSteps 48 (beginOp o s) = .next (afterExpansion { beginOp o s with w := storeSchedule (expand m) s.w }) := by
  rw [← subStep_expanding_last o m s hm, ← expanding_zero o m s ho hm, subSteps_add 47 1,
    subSteps_of_path _ 47 (subStep_expanding o m s), andThen_next, subSteps_one]

end Expansion

/-! ### The path through the rounds (R187, R188) -/

/-- The working words after the first `n` rounds over `W`, from `hin` (R187). -/
def roundsBelow (hin : Vector Word 8) (W : Vector Word 64) (n : Nat) : Vector Word 8 :=
  (List.range n).foldl (fun v r => roundFn v kRom[Fin.ofNat 64 r] W[Fin.ofNat 64 r]) hin

theorem roundsBelow_succ (hin : Vector Word 8) (W : Vector Word 64) (n : Nat) (hn : n < 64) :
    roundsBelow hin W (n + 1) = roundFn (roundsBelow hin W n) kRom[n] W[n] := by
  have hi : Fin.ofNat 64 n = ⟨n, hn⟩ := Fin.ext (Nat.mod_eq_of_lt hn)
  simp only [roundsBelow, List.range_succ, List.foldl_append, List.foldl_cons, List.foldl_nil, hi, Fin.getElem_fin]

theorem runRounds_eq_roundsBelow (hin : Vector Word 8) (W : Vector Word 64) :
    runRounds hin W = roundsBelow hin W 64 := by
  unfold runRounds
  rw [roundIndices, List.foldl_map, roundsBelow]

/-- The phase after `n` rounds: RND(n), or FOLD after round 63 (R188). -/
def roundPhase (n : Nat) : Phase := if h : n < 64 then .rnd ⟨n, h⟩ else .fold

theorem roundPhase_succ (n : Nat) (hn : n < 64) :
    (if (⟨n, hn⟩ : Fin 64) = 63 then Phase.fold else .rnd (⟨n, hn⟩ + 1)) = roundPhase (n + 1) := by
  split
  next h =>
    have : n = 63 := congrArg Fin.val h
    simp [roundPhase, this]
  next h =>
    have hval : ((⟨n, hn⟩ : Fin 64) + 1).val = n + 1 := val_add_one_of_ne_last h
    have hlt : n + 1 < 64 := hval ▸ Fin.isLt _
    rw [roundPhase, dif_pos hlt]
    exact congrArg Phase.rnd (Fin.ext hval)

/-- The state after LOAD and `n` rounds over the schedule `W` (R188). -/
def rounding (W : Vector Word 64) (s : State) (n : Nat) : State :=
  { s with wr := written (roundsBelow s.h W n), phase := roundPhase n }

section Rounds

variable (W : Vector Word 64) (s : State)

theorem readWorking_rounding (n : Nat) : readWorking (rounding W s n) = roundsBelow s.h W n :=
  readWorking_of _ _ rfl

/-- RND(n) makes round `n` (R186, R188). -/
theorem subStep_rounding (hw : s.w = written W) (n : Nat) (hn : n < 64) :
    subStep (rounding W s n) = .next (rounding W s (n + 1)) := by
  have hp : (rounding W s n).phase = .rnd ⟨n, hn⟩ := dif_pos hn
  have hv : readW ⟨n, hn⟩ (rounding W s n) = .ok W[n] := readW_some _ _ _ (by simp [rounding, hw])
  simp only [subStep, hp, subStepRnd, hv, readWorking_rounding, roundPhase_succ n hn, Fin.getElem_fin,
    ← roundsBelow_succ s.h W n hn]
  rfl

/-- FOLD after the 64 rounds: the block is compressed (R187, R188). -/
theorem subStep_fold : subStep (rounding W s 64) = .next (finishOp (compressStorage W s)) := by
  have hp : (rounding W s 64).phase = .fold := rfl
  simp only [subStep, hp, subStepFold, readWorking_rounding, ← runRounds_eq_roundsBelow]
  simp only [rounding, ← runRounds_eq_roundsBelow]
  rfl

/-- LOAD, the 64 rounds and FOLD compress the block of the schedule `W` (R187, R188). -/
theorem subSteps_compression (hp : s.phase = .load) (hw : s.w = written W) :
    subSteps 66 s = .next (finishOp (compressStorage W s)) := by
  have hload : subStep s = .next (rounding W s 0) := by
    simp only [subStep, hp, subStepLoad]
    rfl
  rw [subSteps_add 1 65, subSteps_one, hload, andThen_next, subSteps_add 64 1,
    subSteps_of_path _ 64 (subStep_rounding W s hw), andThen_next, subSteps_one, subStep_fold]

end Rounds

/-! ### The sub-steps of a command give the state of the atomic command (R166, R188, R213) -/

section Refinement

variable (s : State)

/-- Ending a command changes nothing where none is in progress. -/
theorem finishOp_of_idle (hp : s.phase = .idle) (ho : s.op = none) : finishOp s = s := by
  rw [finishOp, ← hp, ← ho]

/-- Where the message words stand, an expansion makes the whole memory the schedule (R165). -/
theorem storeSchedule_expand (m : Vector Word 16) (w : Vector (Option Word) 64)
    (hm : ∀ i : Fin 16, w[i.val] = some m[i]) : storeSchedule (expand m) w = written (expand m) := by
  rw [← scheduleBelow_full m w hm, ← expand_eq_expandPasses]
  ext k hk : 1
  rw [scheduleBelow_getElem, if_pos hk, written_getElem]

theorem subSteps_expand (m : Vector Word 16) (hp : s.phase = .idle) (ho : s.op = none)
    (hm : ∀ i : Fin 16, s.w[i.val] = some m[i]) :
    subSteps 48 (beginOp .expand s) = .next (markScheduleMade { s with w := storeSchedule (expand m) s.w }) :=
  (subSteps_expansion .expand m s rfl hm).trans
    (congrArg _ (finishOp_of_idle (markScheduleMade { s with w := storeSchedule (expand m) s.w }) hp ho))

theorem subSteps_compress (W : Vector Word 64) (hp : s.phase = .idle) (ho : s.op = none) (hW : s.w = written W) :
    subSteps 66 (beginOp .compress s) = .next (compressStorage W s) :=
  (subSteps_compression W (beginOp .compress s) rfl hW).trans
    (congrArg _ (finishOp_of_idle (compressStorage W s) hp ho))

theorem subSteps_hashblk (m : Vector Word 16) (hp : s.phase = .idle) (ho : s.op = none)
    (hm : ∀ i : Fin 16, s.w[i.val] = some m[i]) :
    subSteps 114 (beginOp .hashblk s) =
      .next (compressStorage (expand m) { s with w := storeSchedule (expand m) s.w }) := by
  rw [subSteps_add 48 66, subSteps_expansion .hashblk m s rfl hm, andThen_next]
  exact (subSteps_compression (expand m) _ rfl (storeSchedule_expand m s.w hm)).trans
    (congrArg _ (finishOp_of_idle (compressStorage (expand m) { s with w := storeSchedule (expand m) s.w }) hp ho))

end Refinement

/-- What WVALID = 0xFFFF says: every message word holds a word (R45, invariant 2). -/
theorem State.Inv.message {s : State} (h : s.Inv) (hc : s.status.wvalid = 0xFFFF#16) :
    ∃ m : Vector Word 16, ∀ i : Fin 16, s.w[i.val] = some m[i] := by
  have hbit : ∀ i : Fin 16, (0xFFFF#16).getLsbD i = true := by decide
  have hsome : ∀ i : Fin 16, s.w[i.val].isSome = true := fun i => h.loaded i (by rw [hc]; exact hbit i)
  refine ⟨Vector.ofFn fun i => s.w[i.val].get (hsome i), fun i => ?_⟩
  simp

/-- What SV = 1 says: every entry of the schedule memory holds a word (R38, R45). -/
theorem State.Inv.schedule {s : State} (h : s.Inv) (hc : s.status.sv = true) : ∃ W, s.w = written W := by
  obtain ⟨m, hm⟩ := h.message (h.complete hc)
  refine exists_written s.w fun i => ?_
  by_cases hi : i.val < 16
  · simp [hm ⟨i.val, hi⟩]
  · obtain ⟨_, _, _, _, -, -, -, -, hw⟩ := h.expanded hc i.val (by omega) i.isLt
    simp [hw]

/-- R166, R188 and R213 in one: from a state of the invariant, the sub-steps of a multi-cycle command that passes its
check end in the state of the atomic command. -/
theorem subSteps_beginOp {i : Instr} {o : SeqOp} {s : State} (h : s.Inv) (hi : multiCycleOp i = some o)
    (hc : sequencingCheck o s = true) :
    ∃ t, exec i s = .next t ∧ subSteps (subStepsLeft (beginOp o s)) (beginOp o s) = .next t := by
  obtain ⟨hp, ho⟩ := h.idle
  cases i <;> cases hi
  case expand =>
    obtain ⟨m, hm⟩ := h.message ((Status.messageComplete_iff _).mp hc)
    exact ⟨_, execExpand_complete s hc m hm, subSteps_expand s m hp ho hm⟩
  case compress =>
    obtain ⟨W, hW⟩ := h.schedule hc
    exact ⟨_, execCompress_valid s hc W hW, subSteps_compress s W hp ho hW⟩
  case hashblk =>
    obtain ⟨m, hm⟩ := h.message ((Status.messageComplete_iff _).mp hc)
    exact ⟨_, execHashblk_complete s hc m hm, subSteps_hashblk s m hp ho hm⟩

end Sys2Proof.Machine
end

section
/-! SUPPORT. The clocked machine with any latencies: what an accept edge does, where the busy cycles after it lead, and the
two statements about every legal value of the latencies (R7, R39, R287, R294, R296). -/

namespace Sys2Proof.Machine

/-! ### The accept edge -/

/-- Sampling a transaction leaves the invariant, which says nothing of `tx` and `res_valid`. -/
theorem State.Inv.sampled {s : State} (h : s.Inv) (x : Transaction) : (sample x s).Inv := { h with }

/-- A multi-cycle command that fails its check raises its error and nothing else (R164, R187, R213, R253). -/
theorem exec_of_failed_check {i : Instr} {o : SeqOp} {s : State} (hi : multiCycleOp i = some o)
    (hc : sequencingCheck o s = false) : ∃ e, exec i s = .next (raiseCoreError e s) := by
  cases i <;> cases hi
  case expand => exact ⟨_, execExpand_incomplete s hc⟩
  case compress => exact ⟨_, execCompress_invalid s hc⟩
  case hashblk => exact ⟨_, execHashblk_incomplete s hc⟩

/-- All that an accept cycle can do: a multi-cycle command that passes its check starts, and is busy for a cycle or more;
every other command completes (R39, R253, R287, R294). -/
theorem startCommand_cases {lat : Latencies} (hlat : lat.legal) (i : Instr) (s : State) :
    (∃ o, multiCycleOp i = some o ∧ sequencingCheck o s = true ∧ startCommand i s = .next (beginOp o s) ∧
        1 ≤ busyCycles lat i s) ∨
      ((∀ o, multiCycleOp i = some o → sequencingCheck o s = false) ∧ startCommand i s = exec i s ∧
        busyCycles lat i s = 0) := by
  obtain ⟨hsimple, hexpand, hcompress, hhashblk⟩ := hlat
  cases hi : multiCycleOp i with
  | none => exact .inr ⟨nofun, by simp [startCommand, hi], by simp [busyCycles, hi, hsimple]⟩
  | some o =>
    cases hc : sequencingCheck o s with
    | true =>
      refine .inl ⟨o, rfl, hc, by simp [startCommand, hi, hc], ?_⟩
      cases o <;> simp only [busyCycles, hi, hc, if_true] <;> omega
    | false =>
      refine .inr ⟨?_, by simp [startCommand, hi, hc], by simp [busyCycles, hi, hc, hsimple]⟩
      rintro _ ⟨⟩
      exact hc

/-- The busy cycles of a command are settled before its transaction is sampled. -/
theorem busyCycles_sample (lat : Latencies) (i : Instr) (x : Transaction) (s : State) :
    busyCycles lat i (sample x s) = busyCycles lat i s := by
  have hc (o : SeqOp) : sequencingCheck o (sample x s) = sequencingCheck o s := by cases o <;> rfl
  simp only [busyCycles, hc]

/-- The transaction-level edge of an accepted command (R9, R286). -/
theorem transactEdge_accept (p : Pins) (s : State) (i : Instr) (hr : p.rstN = true) (hv : p.cmdValid = true)
    (hi : s.phase = .idle) (hd : decode p.tx.cmd = some i) : transactEdge p s = exec i (sample p.tx s) := by
  rw [transactEdge, clockEdge_accept _ _ _ _ hr hv hi, runSampled_some _ _ i hd]

/-! ### The busy cycles -/

theorem endPulse_of_no_pulse (s : State) (h : s.resValid = false) : endPulse s = s := by
  rw [endPulse, ← h]

/-- The command in progress in `s`, with `left` busy cycles to go, ends in `final`: the Core is busy while cycles are left,
`res_valid` is 0, and the sub-steps left lead to `final`. -/
structure OnCourse (final s : State) (left : Nat) : Prop where
  idle_iff : s.phase = .idle ↔ left = 0
  noPulse : s.resValid = false
  ends : subSteps (subStepsLeft s) s = .next final

section OnCourse

variable {final s : State} {left : Nat}

/-- RES is already that of the end. -/
theorem OnCourse.res_eq (h : OnCourse final s left) : s.res = final.res :=
  (subSteps_frame h.ends).2.1.symm

/-- With no cycle left the command is at its end. -/
theorem OnCourse.eq_final (h : OnCourse final s 0) : s = final := by
  have hends := h.ends
  rw [(subStepsLeft_eq_zero_iff s).mpr (h.idle_iff.mpr rfl)] at hends
  exact Host.Outcome.next.inj hends

/-- A busy cycle without a reset keeps the command on its course: the sub-steps it makes leave no more than one for every
later cycle, and none only where no cycle is left (R296; log 6). -/
theorem OnCourse.exists_timedEdge (h : OnCourse final s left) (hpos : 0 < left) (lat : Latencies) (p : Pins)
    (hr : p.rstN = true) : ∃ t, timedEdge lat p ⟨s, left⟩ = .next ⟨t, left - 1⟩ ∧ OnCourse final t (left - 1) := by
  have hbusy : s.phase ≠ .idle := fun hp => hpos.ne' (h.idle_iff.mp hp)
  have hwork : subStepsLeft s ≠ 0 := mt (subStepsLeft_eq_zero_iff s).mp hbusy
  have hsplit : subStepsLeft s =
      (subStepsLeft s - (left - 1)) + (subStepsLeft s - (subStepsLeft s - (left - 1))) := by omega
  have hends := h.ends
  rw [hsplit, subSteps_add, andThen_eq_next] at hends
  obtain ⟨t, ht, hrest⟩ := hends
  obtain ⟨hleft, -, hvalid⟩ := subSteps_frame ht
  refine ⟨t, ?_, ?_, hvalid.trans h.noPulse, ?_⟩
  · rw [timedEdge_busy lat p ⟨s, left⟩ hr hbusy, endPulse_of_no_pulse s h.noPulse, pacedWork, ht, andThen_next]
  · rw [← subStepsLeft_eq_zero_iff, hleft]
    omega
  · rwa [hleft]

/-- So do any edges without a reset, as many as there are busy cycles at most. -/
theorem OnCourse.exists_timedRun (h : OnCourse final s left) (lat : Latencies) (ps : List Pins)
    (hr : ∀ q ∈ ps, q.rstN = true) (hle : ps.length ≤ left) :
    ∃ t, timedRun lat ps ⟨s, left⟩ = .next ⟨t, left - ps.length⟩ ∧ OnCourse final t (left - ps.length) := by
  induction ps generalizing s left with
  | nil => exact ⟨s, rfl, h⟩
  | cons p ps ih =>
    rw [List.length_cons] at hle ⊢
    obtain ⟨t, hedge, ht⟩ := h.exists_timedEdge (by omega) lat p (hr p List.mem_cons_self)
    obtain ⟨u, hrun, hu⟩ := ih ht (fun q hq => hr q (List.mem_cons_of_mem p hq)) (by omega)
    rw [Nat.sub_sub, Nat.add_comm] at hrun hu
    exact ⟨u, by rw [timedRun, hedge, andThen_next, hrun], hu⟩

end OnCourse

/-- A command that passed its check starts on the course to the state of the atomic command, with any latency of a cycle or
more (R39, R166, R188). -/
theorem onCourse_beginOp {i : Instr} {o : SeqOp} {s : State} (h : s.Inv) (hs : s.resValid = false)
    (hi : multiCycleOp i = some o) (hc : sequencingCheck o s = true) {left : Nat} (hpos : 1 ≤ left) :
    ∃ final, exec i s = .next final ∧ OnCourse final (beginOp o s) left := by
  obtain ⟨final, hexec, hends⟩ := subSteps_beginOp h hi hc
  have hbusy : firstPhase o ≠ .idle := by cases o <;> nofun
  exact ⟨final, hexec, ⟨fun hp => absurd hp hbusy, fun h0 => absurd h0 (by omega)⟩, hs, hends⟩

/-- The accept edge of a command, and the edges after it. -/
theorem timedRun_accept (lat : Latencies) (p : Pins) (ps : List Pins) (s : State) (i : Instr) (hr : p.rstN = true)
    (hv : p.cmdValid = true) (hi : s.phase = .idle) (hd : decode p.tx.cmd = some i) :
    timedRun lat (p :: ps) ⟨s, 0⟩ =
      andThen (startCommand i (sample p.tx s)) fun t => timedRun lat ps ⟨t, busyCycles lat i s⟩ := by
  rw [timedRun, timedEdge_accept lat p ⟨s, 0⟩ i hr hv hi hd, andThen_assoc]
  rfl

/-- All that the clocked machine can do with an accepted command and edges without a reset, as many as its busy cycles at
most: a multi-cycle command that passes its check is on its course to the state of the atomic command; every other
command is complete at its accept edge (R39, R253, R287). -/
theorem timedRun_accept_cases {lat : Latencies} (hlat : lat.legal) {s : State} (hinv : s.Inv) {p : Pins} {i : Instr}
    {ps : List Pins} (hr : p.rstN = true) (hv : p.cmdValid = true) (hd : decode p.tx.cmd = some i)
    (hps : ∀ q ∈ ps, q.rstN = true) (hle : ps.length ≤ busyCycles lat i s) :
    (∃ t final, timedRun lat (p :: ps) ⟨s, 0⟩ = .next ⟨t, busyCycles lat i s - ps.length⟩ ∧
        exec i (sample p.tx s) = .next final ∧ OnCourse final t (busyCycles lat i s - ps.length) ∧ t.res = s.res) ∨
      ((∀ o, multiCycleOp i = some o → sequencingCheck o (sample p.tx s) = false) ∧ busyCycles lat i s = 0 ∧
        timedRun lat (p :: ps) ⟨s, 0⟩ = andThen (exec i (sample p.tx s)) fun t => .next ⟨t, 0⟩) := by
  rw [timedRun_accept lat p ps s i hr hv hinv.idle.1 hd]
  have hbusy := busyCycles_sample lat i p.tx s
  rcases startCommand_cases hlat i (sample p.tx s) with ⟨o, ho, hc, hstart, hpos⟩ | ⟨hfail, hstart, hzero⟩
  · rw [hbusy] at hpos
    obtain ⟨final, hexec, hcourse⟩ := onCourse_beginOp (hinv.sampled p.tx) rfl ho hc hpos
    obtain ⟨t, hrun, ht⟩ := hcourse.exists_timedRun lat ps hps hle
    exact .inl ⟨t, final, by rw [hstart, andThen_next, hrun], hexec, ht, ht.res_eq.trans hcourse.res_eq.symm⟩
  · rw [hbusy] at hzero
    rw [hzero] at hle ⊢
    obtain rfl : ps = [] := List.eq_nil_of_length_eq_zero (by omega)
    exact .inr ⟨hfail, rfl, by rw [hstart]; rfl⟩

/-- BUSY and `cmd_ready` of a Core that is idle exactly after `n` of `n` cycles (R39, R287). -/
theorem busy_and_cmdReady_of_idle_iff {s : State} {k n : Nat} (h : s.phase = .idle ↔ n - k = 0) (hle : k ≤ n) :
    s.busy = decide (k < n) ∧ cmdReady true s = decide (k = n) := by
  have hbusy : s.busy = decide (k < n) := by
    rw [State.busy, decide_eq_decide, ne_eq, h]
    omega
  refine ⟨hbusy, ?_⟩
  rw [cmdReady, hbusy, Bool.true_and, ← decide_not, decide_eq_decide]
  omega

/-! ### The statements -/

/-- Settles O52: at the end of its busy cycles a command that started is at the end of its course, the state of the atomic
command; one that completes in its accept cycle is there at once. -/
theorem everyLatencyRefinesAtomicCommand : Obligations.EveryLatencyRefinesAtomicCommand := by
  intro lat s p i ps hlat hinv hr hv hd hlen hps
  rw [transactEdge_accept p s i hr hv hinv.idle.1 hd]
  rcases timedRun_accept_cases hlat hinv hr hv hd hps hlen.le with ⟨t, final, hrun, hexec, ht, -⟩ | ⟨-, -, hrun⟩
  · rw [hlen, Nat.sub_self] at hrun ht
    rw [hrun, hexec, ht.eq_final, andThen_next]
  · exact hrun

/-- Settles O53: a command that started is idle exactly when no busy cycle is left, and its sub-steps keep RES; one that
failed its check has no busy cycle and raises its error. -/
theorem busyForTheLatency : Obligations.BusyForTheLatency := by
  intro lat s p i ps hlat hinv hr hv hd hmulti hps hle
  rcases timedRun_accept_cases hlat hinv hr hv hd hps hle with ⟨t, final, hrun, -, ht, hres⟩ | ⟨hfail, hzero, hrun⟩
  · obtain ⟨hbusy, hready⟩ := busy_and_cmdReady_of_idle_iff ht.idle_iff hle
    exact ⟨_, hrun, hbusy, hready, hres⟩
  · obtain ⟨o, ho⟩ := Option.ne_none_iff_exists'.mp hmulti
    obtain ⟨e, hexec⟩ := exec_of_failed_check ho (hfail o ho)
    rw [hexec, andThen_next] at hrun
    have hidle : (raiseCoreError e (sample p.tx s)).phase = .idle := hinv.idle.1
    obtain ⟨hbusy, hready⟩ := busy_and_cmdReady_of_idle_iff (iff_of_true hidle (by omega)) hle
    exact ⟨_, hrun, hbusy, hready, rfl⟩

end Sys2Proof.Machine
end

section
/-! SUPPORT. What one edge can do, what the loop of the expansion makes of the schedule memory, and that every command and every
step keeps the invariant of the states between commands (R38, R39, R41, R45, R49). -/

namespace Sys2Proof.Machine

/-! ### What one edge can do -/

/-- What a rising edge can be, with the answer of every machine to it: a reset, nothing accepted, an illegal word
accepted, or a command accepted (R105, R106, R280, R286). -/
inductive EdgeCase (p : Pins) (s : State) : Prop
  | reset (hr : p.rstN = false) (hedge : ∀ run work, clockEdge run work p s = .next (enterReset s))
  | ignored (hr : p.rstN = true) (ha : accepts p s = false)
      (hedge : ∀ run work, clockEdge run work p s = work (endPulse s))
  | illegal (hr : p.rstN = true) (ha : accepts p s = true) (hd : decode p.tx.cmd = none)
      (hedge : ∀ run work, clockEdge run work p s = .next (raiseCoreError .illegalCommand (sample p.tx s)))
  | command (i : Instr) (hr : p.rstN = true) (ha : accepts p s = true) (hd : decode p.tx.cmd = some i)
      (hedge : ∀ run work, clockEdge run work p s = run i (sample p.tx s))

/-- Every edge is one of the cases. -/
theorem clockEdge_cases (p : Pins) (s : State) : EdgeCase p s := by
  cases hr : p.rstN with
  | false => exact .reset hr fun run work => clockEdge_reset run work p s hr
  | true =>
    cases ha : accepts p s with
    | false => exact .ignored hr ha fun run work => clockEdge_ignored run work p s hr ha
    | true =>
      obtain ⟨-, hv, hi⟩ := (accepts_iff p s).mp ha
      cases hd : decode p.tx.cmd with
      | none =>
        refine .illegal hr ha hd fun run work => ?_
        rw [clockEdge_accept run work p s hr hv hi, runSampled_none run _ hd]
      | some i =>
        refine .command i hr ha hd fun run work => ?_
        rw [clockEdge_accept run work p s hr hv hi, runSampled_some run _ i hd]

/-! ### The schedule that an expansion stores (R38, R165) -/

/-- A pass of the loop leaves the entries of the passes before it (R165). -/
theorem expandPasses_stable (m : Vector Word 16) {n n' : Nat} (hn : n ≤ n') (hn' : n' ≤ 48) (k : Nat)
    (hk : k < 16 + n) : (expandPasses m n')[k] = (expandPasses m n)[k] := by
  induction n', hn using Nat.le_induction with
  | base => rfl
  | succ n' hn ih => rw [expandPasses_succ_getElem m n' (by omega), if_neg (by omega), ih (by omega)]

/-- Every entry of `Expand` from 16 on is the recurrence over earlier entries (R165). -/
theorem expand_recurrence (m : Vector Word 16) (t : Nat) (h16 : 16 ≤ t) (h : t < 64) :
    (expand m)[t] =
      scheduleWord (expand m)[t - 2] (expand m)[t - 7] (expand m)[t - 15] (expand m)[t - 16] := by
  obtain ⟨n, rfl⟩ := Nat.exists_eq_add_of_le h16
  have before (k : Nat) (hk : k < 16 + n) : (expandPasses m 48)[k] = (expandPasses m n)[k] :=
    expandPasses_stable m (by omega) le_rfl k hk
  have made : (expandPasses m 48)[16 + n] = (expandPasses m (n + 1))[16 + n] :=
    expandPasses_stable m (by omega) le_rfl (16 + n) (by omega)
  simp only [expand_eq_expandPasses, made, expandPasses_succ_getElem m n (by omega), if_true]
  rw [before, before, before, before] <;> omega

/-- A memory that holds an expansion is expanded (R38). -/
theorem scheduleExpanded_written_expand (m : Vector Word 16) : scheduleExpanded (written (expand m)) := by
  intro t h16 h
  refine ⟨_, _, _, _, written_getElem _ _ _, written_getElem _ _ _, written_getElem _ _ _, written_getElem _ _ _, ?_⟩
  rw [written_getElem, expand_recurrence m t h16 h]

/-- A file every entry of which holds a word is uniform. -/
theorem uniform_written {n : Nat} (lo : Nat) (v : Vector Word n) : uniform lo (written v) :=
  .inr fun i _ => by simp

/-! ### The operations of the commands keep the invariant -/

section Operations

variable {s : State}

/-- Raising an error records one of the codes 1, 2, 3 or keeps the first one's (R41, R251, R252). -/
theorem State.Inv.after_raiseCoreError (h : s.Inv) (e : CoreError) : (raiseCoreError e s).Inv := by
  rcases raiseCoreError_cases e s with ⟨-, heq⟩ | ⟨-, heq⟩ <;> rw [heq]
  · exact h
  · exact { h with code := ⟨nofun, fun _ => by cases e <;> simp [errorCode]⟩ }

/-- CLRERR leaves ERR = 0 and ECODE = 0 (R41, R231). -/
theorem State.Inv.after_clearError (h : s.Inv) : (clearError s).Inv :=
  { h with code := ⟨fun _ => rfl, nofun⟩ }

/-- LDW clears SV, and the entry whose WVALID bit it sets holds a word (R45, R162). -/
theorem State.Inv.after_loadMessageWord (h : s.Inv) (i : Fin 16) (v : Word) : (loadMessageWord i v s).Inv where
  idle := h.idle
  complete := nofun
  loaded k hk := by
    rw [loadMessageWord_w]
    by_cases hik : i.val = k.val
    · simp [hik]
    · have hk' : s.status.wvalid.getLsbD k = true := by simpa [Ne.symm hik] using hk
      simpa [hik] using h.loaded k hk'
  expanded := nofun
  code := h.code
  derived := by
    have keep (k : Fin 64) (hk : 16 ≤ k.val) : (loadMessageWord i v s).w[k] = s.w[k] := by
      have : i.val ≠ k.val := by omega
      simp [this]
    exact h.derived.imp (fun hd k hk => (keep k hk).trans (hd k hk)) fun hd k hk => by rw [keep k hk]; exact hd k hk
  working := h.working

/-- Storing the expansion of the message words fills the memory with a schedule (R34, R38). -/
theorem State.Inv.after_storeExpansion (h : s.Inv) {m : Vector Word 16} (hm : ∀ k : Fin 16, s.w[k.val] = some m[k]) :
    State.Inv { s with w := storeSchedule (expand m) s.w } := by
  rw [storeSchedule_expand m s.w hm]
  exact { h with
    loaded := fun i _ => by simp
    expanded := fun _ => scheduleExpanded_written_expand m
    derived := uniform_written 16 _ }

/-- EXPAND may set SV where WVALID = 0xFFFF and the schedule stands (R45, R164). -/
theorem State.Inv.after_markScheduleMade (h : s.Inv) (hc : s.status.wvalid = 0xFFFF#16) (hw : scheduleExpanded s.w) :
    (markScheduleMade s).Inv :=
  { h with complete := fun _ => hc, expanded := fun _ => hw }

/-- COMPRESS clears SV and WVALID and writes all of WR (R32, R187). -/
theorem State.Inv.after_compressStorage (h : s.Inv) (W : Vector Word 64) : (compressStorage W s).Inv :=
  { h with
    complete := nofun
    loaded := fun i hi => by simp at hi
    expanded := nofun
    working := uniform_written 0 _ }

end Operations

/-! ### Every command and every step keeps the invariant -/

/-- Every command keeps the invariant. -/
theorem State.Inv.after_exec {i : Instr} {s t : State} (h : s.Inv) (he : exec i s = .next t) : t.Inv := by
  cases exec_cases he with
  | nothing _ ht => exact ht ▸ h
  | errorCleared _ ht => exact ht ▸ h.after_clearError
  | result v _ _ _ ht => exact ht ▸ { h with }
  | scheduleRead k v _ _ ht => exact ht ▸ { h with }
  | workingRead j _ ht => exact ht ▸ { h with }
  | messageWord k v _ ht => exact ht ▸ h.after_loadMessageWord k v
  | initialized _ ht => exact ht ▸ { h with }
  | chainingWord j v _ ht => exact ht ▸ { h with }
  | expandError _ _ ht => exact ht ▸ h.after_raiseCoreError _
  | expanded m _ hc hm ht =>
    have hw : scheduleExpanded (storeSchedule (expand m) s.w) := by
      rw [storeSchedule_expand m s.w hm]
      exact scheduleExpanded_written_expand m
    exact ht ▸ (h.after_storeExpansion hm).after_markScheduleMade ((Status.messageComplete_iff _).mp hc) hw
  | compressError _ _ ht => exact ht ▸ h.after_raiseCoreError _
  | compressed W _ _ _ ht => exact ht ▸ h.after_compressStorage W
  | hashblkError _ _ ht => exact ht ▸ h.after_raiseCoreError _
  | hashed m _ _ hm ht => exact ht ▸ (h.after_storeExpansion hm).after_compressStorage _

/-- The reset state is between commands, with no entry written and no error recorded (R45, R50). -/
theorem inv_reset : State.reset.Inv where
  idle := ⟨rfl, rfl⟩
  complete := nofun
  loaded i hi := by simp [State.reset, Status.reset] at hi
  expanded := nofun
  code := ⟨fun _ => rfl, nofun⟩
  derived := .inl fun i _ => by simp [State.reset]
  working := .inl fun j _ => by simp [State.reset]

/-- A reset edge makes the fields that the invariant speaks of those of the reset state (R281). -/
theorem inv_enterReset (s : State) : (enterReset s).Inv := { inv_reset with }

/-- Every edge keeps the invariant: a reset, an accepted command or illegal word, or nothing (R280, R286). -/
theorem State.Inv.after_transactEdge {p : Pins} {s t : State} (h : s.Inv) (he : transactEdge p s = .next t) :
    t.Inv := by
  cases clockEdge_cases p s with
  | reset _ hedge => exact next_eq (hedge _ _) he ▸ inv_enterReset s
  | ignored _ _ hedge => exact next_eq ((hedge _ _).trans (subStep_idle (endPulse s) h.idle.1)) he ▸ { h with }
  | illegal _ _ _ hedge => exact next_eq (hedge _ _) he ▸ (h.sampled p.tx).after_raiseCoreError _
  | command i _ _ _ hedge => exact (h.sampled p.tx).after_exec ((hedge _ _).symm.trans he)

/-- Settles O47: a step is an edge of a state that differs in the Host's list only. -/
theorem everyStepKeepsInvariant : Obligations.EveryStepKeepsInvariant := by
  intro s t h hs
  cases hh : s.host with
  | nil =>
    rw [step_nil s hh] at hs
    exact h.after_transactEdge hs
  | cons p rest =>
    rw [step_cons s p rest hh] at hs
    exact State.Inv.after_transactEdge (s := { s with host := rest }) { h with } hs

/-- Settles O46. -/
theorem invariantHoldsAtReset : Obligations.InvariantHoldsAtReset := inv_reset

end Sys2Proof.Machine
end

section
/-! SUPPORT. From the states of the invariant the one fault is an RDW of an entry without a value, where the hardware
returns some word (R12, R36, R163). -/

namespace Sys2Proof.Machine

/-- From a state of the invariant a multi-cycle command never faults: where its check passes, the entries that it reads
hold words (R36, R45). -/
theorem State.Inv.exists_exec_of_multiCycle {i : Instr} {o : SeqOp} {s : State} (h : s.Inv)
    (hi : multiCycleOp i = some o) : ∃ t, exec i s = .next t := by
  cases hc : sequencingCheck o s with
  | false =>
    obtain ⟨e, he⟩ := exec_of_failed_check hi hc
    exact ⟨_, he⟩
  | true =>
    obtain ⟨t, ht, -⟩ := subSteps_beginOp h hi hc
    exact ⟨t, ht⟩

/-- From a state of the invariant the one command that faults is an RDW, of an entry without a value (R36, R45, R163). -/
theorem State.Inv.exec_fault {i : Instr} {s : State} {f : Fault} (h : s.Inv) (he : exec i s = .fault f) :
    ∃ k, i = .rdw k ∧ s.w[k] = none ∧ f = .unwrittenRead (.w k) := by
  cases hm : multiCycleOp i with
  | some o =>
    obtain ⟨t, ht⟩ := h.exists_exec_of_multiCycle hm
    cases ht.symm.trans he
  | none =>
    cases i with
    | rdw k =>
      cases hk : s.w[k] with
      | some x => cases (execRdw_some k s x hk).symm.trans he
      | none => exact ⟨k, rfl, hk, (Host.Outcome.fault.inj ((execRdw_none k s hk).symm.trans he)).symm⟩
    | expand | compress | hashblk => cases hm
    | _ => cases he

/-- From a state of the invariant an edge faults only where it accepts an RDW of an entry without a value (R163). -/
theorem State.Inv.transactEdge_fault {p : Pins} {s : State} {f : Fault} (h : s.Inv)
    (he : transactEdge p s = .fault f) : accepts p s = true ∧
      ∃ k, decode p.tx.cmd = some (.rdw k) ∧ s.w[k] = none ∧ f = .unwrittenRead (.w k) := by
  cases clockEdge_cases p s with
  | reset _ hedge => cases (hedge _ _).symm.trans he
  | ignored _ _ hedge => cases ((hedge _ _).trans (subStep_idle (endPulse s) h.idle.1)).symm.trans he
  | illegal _ _ _ hedge => cases (hedge _ _).symm.trans he
  | command i _ ha hd hedge =>
    obtain ⟨k, rfl, hk, hf⟩ := (h.sampled p.tx).exec_fault ((hedge _ _).symm.trans he)
    exact ⟨ha, k, hd, hk, hf⟩

/-- Where the transaction-level edge answers a next state, so does the hardware, and the same (R36). -/
theorem hardwareEdge_of_next {p : Pins} {s t : State} (h : transactEdge p s = .next t) :
    hardwareEdge p s = .next t := by
  cases clockEdge_cases p s with
  | reset _ hedge => exact ((hedge _ _).trans (hedge _ _).symm).trans h
  | ignored _ _ hedge => exact ((hedge _ _).trans (hedge _ _).symm).trans h
  | illegal _ _ _ hedge => exact ((hedge _ _).trans (hedge _ _).symm).trans h
  | command i _ _ _ hedge => exact (hedge _ _).trans (hardwareExec_of_next ((hedge _ _).symm.trans h))

/-- Settles O49: at the one fault, an RDW, the hardware writes the word of the flops to RES. -/
theorem hardwareReturnsSomeWordWhereModelFaults : Obligations.HardwareReturnsSomeWordWhereModelFaults := by
  intro s p h
  refine ⟨fun t => hardwareEdge_of_next, fun f hf => ?_⟩
  obtain ⟨ha, k, hd, -, -⟩ := h.transactEdge_fault hf
  obtain ⟨hr, hv, hi⟩ := (accepts_iff p s).mp ha
  refine ⟨flopsW k s, ?_⟩
  rw [hardwareEdge, clockEdge_accept _ _ _ _ hr hv hi, runSampled_some _ _ _ hd]
  rfl

end Sys2Proof.Machine
end

section
/-! SUPPORT. Which commands write which storage, and what a command can do to STATUS (R30 to R43, R251, R252). -/

namespace Sys2Proof.Machine

/-! ### Storage -/

/-- Storing a schedule writes entries from 16 on only (R164). -/
theorem le_of_storeSchedule_ne {S : Vector Word 64} {w : Vector (Option Word) 64} {n : Fin 64}
    (h : (storeSchedule S w)[n] ≠ w[n]) : 16 ≤ n.val := by
  by_contra hn
  simp [storeSchedule_getElem, Nat.lt_of_not_le hn] at h

/-- LDW k writes entry k only (R162). -/
theorem eq_of_loadMessageWord_ne {k : Fin 16} {v : Word} {s : State} {n : Fin 64}
    (h : (loadMessageWord k v s).w[n] ≠ s.w[n]) : k.val = n.val := by
  by_contra hkn
  simp [hkn] at h

/-- Settles O37, by the update that each case of a command makes. -/
theorem onlyNamedCommandsWriteStorage : Obligations.OnlyNamedCommandsWriteStorage := by
  intro i s t h
  cases exec_cases h with
  | nothing _ ht => subst ht; simp
  | errorCleared _ ht => subst ht; simp
  | result v hi _ _ ht => subst ht; simp [hi]
  | scheduleRead k v hi _ ht => subst hi ht; simp [writesRes]
  | workingRead j hi ht =>
    subst hi ht
    have hmark : (noteRead (.wr j) s.wr[j] s).modelFault ≠ s.modelFault → s.wr[j] = none := fun hne =>
      ((noteRead_modelFault_cases _ _ s).resolve_left hne).1
    refine ⟨absurd rfl, absurd rfl, fun _ => absurd rfl, fun _ => rfl, fun hne => ⟨j, rfl, hmark hne⟩, ?_⟩
    exact ⟨rfl, rfl, rfl, rfl, rfl⟩
  | messageWord k v hi ht =>
    subst hi ht
    simpa using fun n => eq_of_loadMessageWord_ne (k := k) (v := v) (s := s) (n := n)
  | initialized hi ht => subst hi ht; simp
  | chainingWord j v hi ht => subst hi ht; simp
  | expandError _ _ ht => subst ht; simp
  | compressError _ _ ht => subst ht; simp
  | hashblkError _ _ ht => subst ht; simp
  | expanded m hi _ _ ht =>
    subst hi ht
    simpa using fun n => le_of_storeSchedule_ne
  | compressed W hi _ _ ht => subst hi ht; simp
  | hashed m hi _ _ ht =>
    subst hi ht
    simpa using fun n => le_of_storeSchedule_ne

/-! ### STATUS -/

/-- What a command can make of STATUS `a`: the update, with the commands that make it (R38 to R43, R251). -/
inductive StatusCase (i : Instr) (a b : Status) : Prop
  | kept (hb : b = a)
  | errorCleared (hi : i = .clrerr) (hb : b = a.clearError)
  | messageWordLoaded (k : Fin 16) (hi : i = .ldw k) (hb : b = a.messageWordLoaded k)
  | errorRecorded (e : CoreError) (hi : i = .compress ∨ i = .expand ∨ i = .hashblk) (hb : b = a.recordError e)
  | scheduleMade (hi : i = .expand) (hb : b = a.scheduleMade)
  | blockConsumed (hi : i = .compress ∨ i = .hashblk) (hb : b = a.blockConsumed)

/-- The STATUS that a command leaves is one of the cases. -/
theorem exec_status {i : Instr} {s t : State} (h : exec i s = .next t) : StatusCase i s.status t.status := by
  cases exec_cases h with
  | nothing _ ht => subst ht; exact .kept rfl
  | errorCleared hi ht => subst ht; exact .errorCleared hi rfl
  | result v _ _ _ ht => subst ht; exact .kept rfl
  | scheduleRead k v _ _ ht => subst ht; exact .kept rfl
  | workingRead j _ ht => subst ht; exact .kept rfl
  | messageWord k v hi ht => subst ht; exact .messageWordLoaded k hi rfl
  | initialized _ ht => subst ht; exact .kept rfl
  | chainingWord j v _ ht => subst ht; exact .kept rfl
  | expandError hi _ ht => subst ht; exact .errorRecorded _ (.inr (.inl hi)) rfl
  | expanded m hi _ _ ht => subst ht; exact .scheduleMade hi rfl
  | compressError hi _ ht => subst ht; exact .errorRecorded _ (.inl hi) rfl
  | compressed W hi _ _ ht => subst ht; exact .blockConsumed (.inl hi) rfl
  | hashblkError hi _ ht => subst ht; exact .errorRecorded _ (.inr (.inr hi)) rfl
  | hashed m hi _ _ ht => subst ht; exact .blockConsumed (.inr hi) rfl

/-- With ERR set, raising an error leaves the state as it is (R252). -/
theorem raiseCoreError_of_err (e : CoreError) (s : State) (h : s.status.err = true) : raiseCoreError e s = s := by
  rw [raiseCoreError, Status.recordError_of_err e _ h]

/-- Settles O36: of the updates of STATUS only that of CLRERR touches ERR and ECODE where ERR is set. -/
theorem firstErrorCodeIsKept : Obligations.FirstErrorCodeIsKept := by
  refine ⟨fun i s t h herr hi => ?_, raiseCoreError_of_err⟩
  cases exec_status h with
  | kept hb => rw [hb]; exact ⟨herr, rfl⟩
  | errorCleared hi' => exact absurd hi' hi
  | messageWordLoaded k _ hb => rw [hb]; exact ⟨herr, rfl⟩
  | errorRecorded e _ hb => rw [hb, Status.recordError_of_err e _ herr]; exact ⟨herr, rfl⟩
  | scheduleMade _ hb => rw [hb]; exact ⟨herr, rfl⟩
  | blockConsumed _ hb => rw [hb]; exact ⟨herr, rfl⟩

/-- Settles O39, by the update that each case makes of STATUS. -/
theorem onlyNamedCommandsChangeStatus : Obligations.OnlyNamedCommandsChangeStatus := by
  intro i s t h
  cases exec_status h with
  | kept hb => simp +contextual [hb]
  | errorCleared hi hb => simp +contextual [hb, hi]
  | messageWordLoaded k hi hb =>
    have hbit (n : Nat) (h0 : s.status.wvalid.getLsbD n = false) (h1 : t.status.wvalid.getLsbD n = true) :
        k.val = n := by
      simpa [hb, h0] using h1
    refine ⟨?_, fun _ _ => .inl ⟨k, hi⟩, fun n _ h0 h1 => ⟨k, hi, hbit n h0 h1⟩, ?_, ?_, ?_, ?_⟩ <;>
      simp +contextual [hb]
  | errorRecorded e hi hb => rcases hi with rfl | rfl | rfl <;> simp +contextual [hb]
  | scheduleMade hi hb => simp +contextual [hb, hi]
  | blockConsumed hi hb => simp +contextual [hb, hi]

end Sys2Proof.Machine
end

section
/-! SUPPORT. The clocked machine with the nominal latencies makes one sub-step a cycle, so it is the machine of one
phase a cycle (R166, R188, R294; log 6). -/

namespace Sys2Proof.Machine

/-- With a busy cycle for every sub-step left, a busy cycle makes one sub-step. -/
theorem pacedWork_subStepsLeft (s : State) : pacedWork (subStepsLeft s) s = subStep s := by
  cases hp : subStepsLeft s with
  | zero => rw [pacedWork, hp, subStep_idle s ((subStepsLeft_eq_zero_iff s).mp hp)]; rfl
  | succ n => rw [pacedWork, hp, show n + 1 - (n + 1 - 1) = 1 by omega, subSteps_one]

theorem nominal_legal : Latencies.nominal.legal := by simp [Latencies.legal, Latencies.nominal]

/-- No command moves the sequencer in one step (R9, R49). -/
theorem exec_phase {i : Instr} {s t : State} (h : exec i s = .next t) : t.phase = s.phase := by
  obtain ⟨-, -, -, -, -, hphase, -⟩ := onlyNamedCommandsWriteStorage i s t h
  exact hphase

/-- The nominal busy cycles of a command are the sub-steps that its accept cycle leaves (R166, R188, R294). -/
theorem busyCycles_nominal {i : Instr} {s t : State} (hi : s.phase = .idle) (h : startCommand i s = .next t) :
    busyCycles .nominal i s = subStepsLeft t := by
  rcases startCommand_cases nominal_legal i s with ⟨o, ho, hc, hstart, -⟩ | ⟨-, hstart, hzero⟩
  · rw [next_eq hstart h]
    cases o <;> simp [busyCycles, ho, hc, subStepsLeft, beginOp, firstPhase, Latencies.nominal]
  · rw [hzero, eq_comm, subStepsLeft_eq_zero_iff, exec_phase (hstart ▸ h), hi]

@[simp] theorem subStepsLeft_enterReset (s : State) : subStepsLeft (enterReset s) = 0 := rfl

@[simp] theorem subStepsLeft_endPulse (s : State) : subStepsLeft (endPulse s) = subStepsLeft s := rfl

/-- The nominal countdown keeps one busy cycle for every sub-step left (R294). -/
theorem countdown_nominal {p : Pins} {s t : State} (h : cycleEdge p s = .next t) :
    countdown .nominal p ⟨s, subStepsLeft s⟩ = subStepsLeft t := by
  cases clockEdge_cases p s with
  | reset hr hedge =>
    rw [next_eq (hedge _ _) h]
    simp [countdown, hr]
  | ignored hr ha hedge =>
    rw [subStepsLeft_subStep ((hedge _ _).symm.trans h)]
    simp [countdown, hr, ha]
  | illegal hr ha hd hedge =>
    obtain ⟨-, -, hi⟩ := (accepts_iff p s).mp ha
    rw [next_eq (hedge _ _) h]
    simp [countdown, hr, ha, hd, subStepsLeft, hi, Latencies.nominal]
  | command i hr ha hd hedge =>
    obtain ⟨-, -, hi⟩ := (accepts_iff p s).mp ha
    rw [← busyCycles_nominal (s := sample p.tx s) hi ((hedge _ _).symm.trans h), busyCycles_sample]
    simp [countdown, hr, ha, hd]

/-- One edge of the clocked machine with the nominal latencies is an edge of the machine of one phase a cycle. -/
theorem timedEdge_nominal (p : Pins) (s : State) :
    timedEdge .nominal p ⟨s, subStepsLeft s⟩ = andThen (cycleEdge p s) fun t => .next ⟨t, subStepsLeft t⟩ := by
  have hedge : clockEdge startCommand (pacedWork (subStepsLeft s)) p s = cycleEdge p s := by
    have hwork : pacedWork (subStepsLeft s) (endPulse s) = subStep (endPulse s) := pacedWork_subStepsLeft (endPulse s)
    simp only [cycleEdge, clockEdge, hwork]
  simp only [timedEdge, hedge]
  cases h : cycleEdge p s with
  | next t => rw [andThen_next, andThen_next, countdown_nominal h]
  | fault f => rfl
  | refused r => rfl

/-- On every list of edges the two machines agree, from every state with a busy cycle for every sub-step left (R294). -/
theorem timedRun_nominal (ps : List Pins) (s : State) :
    timedRun .nominal ps ⟨s, subStepsLeft s⟩ = andThen (cycleRun ps s) fun t => .next ⟨t, subStepsLeft t⟩ := by
  induction ps generalizing s with
  | nil => rfl
  | cons p ps ih =>
    rw [timedRun, timedEdge_nominal, cycleRun, andThen_assoc, andThen_assoc]
    congr 1
    funext t
    exact ih t

/-- Settles O51: it is the statement about every legal latency, at the nominal ones. -/
theorem busyUntilLastEffect : Obligations.BusyUntilLastEffect := by
  intro s p i ps h hr hv hd hmulti hps hle
  obtain ⟨m, hrun, hbusy, hready, hres⟩ :=
    busyForTheLatency .nominal s p i ps nominal_legal h hr hv hd hmulti hps hle
  rw [← (subStepsLeft_eq_zero_iff s).mpr h.idle.1, timedRun_nominal, andThen_eq_next] at hrun
  obtain ⟨t, ht, hm⟩ := hrun
  cases hm
  exact ⟨t, ht, hbusy, hready, hres⟩

end Sys2Proof.Machine
end

section
/-! SUPPORT. What a decoded word says of its row in the command table, and RDA (R104, R105, R185). -/

namespace Sys2Proof.Machine

/-! ### The command table -/

/-- A decoded command is the one that a matching row of the table builds (R104, R105). -/
theorem exists_row_of_decode {c : CmdWord} {i : Instr} (h : decode c = some i) :
    ∃ r ∈ commandTable, rowMatches c r = true ∧ r.build (immField c) = i := by
  unfold decode at h
  cases hf : commandTable.find? (rowMatches c) with
  | none => rw [hf] at h; cases h
  | some r =>
    rw [hf] at h
    exact ⟨r, List.mem_of_find?_eq_some hf, List.find?_some hf, Option.some.inj h⟩

/-- A word that no row matches is illegal (R106). -/
theorem decode_eq_none {c : CmdWord} (h : ∀ r ∈ commandTable, rowMatches c r = false) : decode c = none := by
  have hf : commandTable.find? (rowMatches c) = none := List.find?_eq_none.mpr fun r hr => by simp [h r hr]
  rw [decode, hf]

/-- Every row fixes CLASS and FN (R104). -/
theorem row_mask_class : ∀ r ∈ commandTable, r.mask &&& 0xFF00#16 = 0xFF00#16 := by decide

/-- A row that matches a word has the word's CLASS and FN (R104). -/
theorem class_of_rowMatches {c : CmdWord} {r : Row} (hr : r ∈ commandTable) (h : rowMatches c r = true) :
    c &&& 0xFF00#16 = r.pattern &&& 0xFF00#16 := by
  have hm : c &&& r.mask = r.pattern := by simpa [rowMatches] using h
  rw [← hm, BitVec.and_assoc, row_mask_class r hr]

/-- A word with the CLASS and FN of a row and a bit of IMM8 set that the row wants 0 is illegal, where no other row has
that CLASS and FN (R102, R106). -/
theorem decode_eq_none_of_imm {c pat mask cls : CmdWord}
    (hrow : ∀ r ∈ commandTable, r.pattern &&& 0xFF00#16 = cls → r.mask = mask ∧ r.pattern = pat)
    (hc : c &&& 0xFF00#16 = cls) (hz : c &&& mask ≠ pat) : decode c = none := by
  refine decode_eq_none fun r hr => ?_
  by_contra hm
  rw [Bool.not_eq_false] at hm
  obtain ⟨rfl, rfl⟩ := hrow r hr ((class_of_rowMatches hr hm).symm.trans hc)
  exact hz (by simpa [rowMatches] using hm)

/-! ### RDA -/

theorem val_index3Of_immField (c : CmdWord) : (index3Of (immField c)).val = c.toNat % 8 := by
  simp [index3Of, immField]

/-- A word whose bits from 3 up are a pattern is the pattern with the word's index3 put in (R102). -/
theorem eq_or_index3 {c pat : CmdWord} (h : c &&& 0xFFF8#16 = pat) :
    c = pat ||| BitVec.ofNat 16 (index3Of (immField c)).val := by
  have hlow : BitVec.ofNat 16 (index3Of (immField c)).val = c &&& 7#16 := by
    apply BitVec.eq_of_toNat_eq
    rw [val_index3Of_immField, BitVec.toNat_and]
    have hmod : c.toNat &&& 7 = c.toNat % 8 := Nat.and_two_pow_sub_one_eq_mod _ 3
    simp only [BitVec.toNat_ofNat, hmod]
    omega
  rw [← h, hlow, ← BitVec.and_or_distrib_left]
  exact BitVec.and_allOnes.symm

/-- The words of RDA (R104). -/
theorem decode_eq_rda_iff (c : CmdWord) (j : Fin 8) :
    decode c = some (.rda j) ↔ c = 0x4100#16 ||| BitVec.ofNat 16 j.val := by
  constructor
  · intro h
    obtain ⟨hm, rfl⟩ : c &&& 0xFFF8#16 = 0x4100#16 ∧ index3Of (immField c) = j := by
      simpa [commandTable, rowsCtrlAlu, rowsMix, rowsSchedRound, rowsChain, rowMatches] using exists_row_of_decode h
    exact eq_or_index3 hm
  · rintro rfl
    decide +revert

/-- A word with the CLASS and FN of RDA and a bit of IMM8 7:3 set is illegal (R102). -/
theorem decode_eq_none_of_rda_imm (c : CmdWord) (hc : c &&& 0xFF00#16 = 0x4100#16) (hz : c &&& 0x00F8#16 ≠ 0) :
    decode c = none := by
  refine decode_eq_none_of_imm (pat := 0x4100#16) (mask := 0xFFF8#16) (by decide) hc fun hm => hz ?_
  calc c &&& 0x00F8#16 = c &&& 0xFFF8#16 &&& 0x00F8#16 := by rw [BitVec.and_assoc]; rfl
    _ = 0 := by rw [hm]; rfl

/-- Settles O23. -/
theorem rdaReadsWorkingRegister : Obligations.RdaReadsWorkingRegister :=
  ⟨decode_eq_rda_iff, decode_eq_none_of_rda_imm, fun s j =>
    ⟨fun v hv => execRda_some j s v hv, fun hn => ⟨_, execRda_none j s hn⟩⟩⟩

end Sys2Proof.Machine
end

section
/-! SUPPORT. The two constant ROMs against their definition from the roots of the first primes (R46, R47). -/

namespace Sys2Proof.Machine

/-- The 64 primes that R46 and R47 take the roots of, in order. -/
def romPrimes : Vector Nat 64 :=
  #v[2, 3, 5, 7, 11, 13, 17, 19, 23, 29, 31, 37, 41, 43, 47, 53,
    59, 61, 67, 71, 73, 79, 83, 89, 97, 101, 103, 107, 109, 113, 127, 131,
    137, 139, 149, 151, 157, 163, 167, 173, 179, 181, 191, 193, 197, 199, 211, 223,
    227, 229, 233, 239, 241, 251, 257, 263, 269, 271, 277, 281, 283, 293, 307, 311]

/-- Entry `i` is prime, and `i` primes are below it. -/
theorem romPrimes_prime_and_count (i : Fin 64) :
    romPrimes[i].Prime ∧ Nat.count Nat.Prime romPrimes[i] = i.val := by
  decide +kernel +revert

/-- Entry `i` is the (i+1)-th prime. -/
theorem nth_prime_eq_romPrimes (i : Fin 64) : Nat.nth Nat.Prime i.val = romPrimes[i] := by
  obtain ⟨hprime, hcount⟩ := romPrimes_prime_and_count i
  calc Nat.nth Nat.Prime i.val = Nat.nth Nat.Prime (Nat.count Nat.Prime romPrimes[i]) := by rw [hcount]
    _ = romPrimes[i] := Nat.nth_count hprime

/-- K holds the low 32 bits of the integer cube roots, taken with 32 fractional bits (R46). -/
theorem kRom_eq_nthRoot (i : Fin 64) : kRom[i] = BitVec.ofNat 32 (Nat.nthRoot 3 (romPrimes[i] * 2 ^ 96)) := by
  decide +kernel +revert

/-- IV holds the low 32 bits of the integer square roots, taken with 32 fractional bits (R47). -/
theorem ivRom_eq_sqrt (j : Fin 8) :
    ivRom[j] = BitVec.ofNat 32 (Nat.sqrt (romPrimes[j.castLE (by decide : 8 ≤ 64)] * 2 ^ 64)) := by
  decide +kernel +revert

/-- Settles O20: the witness is the integer cube root of `p * 2^96`. -/
theorem roundConstantsAreCubeRoots : Obligations.RoundConstantsAreCubeRoots := by
  intro i
  rw [nth_prime_eq_romPrimes i]
  exact ⟨_, Nat.pow_nthRoot_le (.inl three_ne_zero), Nat.lt_pow_nthRoot_add_one three_ne_zero _, kRom_eq_nthRoot i⟩

/-- Settles O21: the witness is the integer square root of `p * 2^64`. -/
theorem initConstantsAreSquareRoots : Obligations.InitConstantsAreSquareRoots := by
  intro j
  rw [show Nat.nth Nat.Prime j.val = _ from nth_prime_eq_romPrimes (j.castLE (by decide))]
  exact ⟨_, Nat.sqrt_le' _, Nat.lt_succ_sqrt' _, ivRom_eq_sqrt j⟩

end Sys2Proof.Machine
end

section
/-! SUPPORT. Big-endian words and their bytes and hexadecimal digits (R76, R77). -/

namespace Sys2Proof.Machine

/-! ### Pieces of one length, one after another -/

section Pieces

variable {α β : Type} {f : α → List β} {n : Nat}

/-- A list of pieces that all have length `n` has `n` entries for each piece. -/
theorem length_flatMap_of_length (hf : ∀ a, (f a).length = n) (l : List α) :
    (l.flatMap f).length = l.length * n := by
  simp [List.length_flatMap, hf]

/-- Where all pieces have length `n`, entry `n * j + k` is entry `k` of piece `j`. -/
theorem getElem?_flatMap_of_length (hf : ∀ a, (f a).length = n) (l : List α) (j k : Nat) (hk : k < n) :
    (l.flatMap f)[n * j + k]? = l[j]?.bind fun a => (f a)[k]? := by
  induction l generalizing j with
  | nil => simp
  | cons a l ih =>
    rw [List.flatMap_cons]
    cases j with
    | zero =>
      rw [Nat.mul_zero, Nat.zero_add, List.getElem?_append_left (by rwa [hf])]
      rfl
    | succ j =>
      have hskip : n * (j + 1) + k - (f a).length = n * j + k := by rw [hf, Nat.mul_succ]; omega
      rw [List.getElem?_append_right (by rw [hf, Nat.mul_succ]; omega), hskip, ih, List.getElem?_cons_succ]

end Pieces

/-! ### Four bytes of a word (R76, R77) -/

theorem toNat_append_eq_add {m n : Nat} (x : BitVec m) (y : BitVec n) :
    (x ++ y).toNat = x.toNat * 2 ^ n + y.toNat := by
  rw [BitVec.toNat_append, ← Nat.shiftLeft_add_eq_or_of_lt y.isLt, Nat.shiftLeft_eq]

theorem toNat_wordOfBytes (b0 b1 b2 b3 : Byte) :
    (wordOfBytes b0 b1 b2 b3).toNat =
      b0.toNat * 2 ^ 24 + b1.toNat * 2 ^ 16 + b2.toNat * 2 ^ 8 + b3.toNat := by
  simp only [wordOfBytes, toNat_append_eq_add]
  omega

/-- Settles O55: entry i of `blockWords` is the word of four bytes from 4i on. -/
theorem messageWordsAreBigEndian : Obligations.MessageWordsAreBigEndian := by
  intro B i _
  simp only [blockWords, Fin.getElem_fin, Vector.getElem_ofFn, toNat_wordOfBytes]

@[simp] theorem length_bytesOfWord (w : Word) : (bytesOfWord w).length = 4 := by simp [bytesOfWord]

/-- Byte `k` of a word, the most significant one first (R76). -/
theorem bytesOfWord_getElem? (w : Word) (k : Nat) (hk : k < 4) :
    (bytesOfWord w)[k]? = some (w.extractLsb' (8 * (3 - k)) 8) := by
  simp [bytesOfWord, hk]

/-- A word is made of its four bytes (R76). -/
theorem wordOfBytes_extract (w : Word) :
    wordOfBytes (w.extractLsb' 24 8) (w.extractLsb' 16 8) (w.extractLsb' 8 8) (w.extractLsb' 0 8) = w := by
  apply BitVec.eq_of_toNat_eq
  simp only [toNat_wordOfBytes, BitVec.extractLsb'_toNat, Nat.shiftRight_eq_div_pow]
  omega

/-- Digest byte `4 * j + k` is byte `k` of H[j] (R77). -/
theorem digestBytes_getD (h : Vector Word 8) (j : Fin 8) (k : Nat) (hk : k < 4) :
    (digestBytes h).getD (4 * j.val + k) 0 = h[j].extractLsb' (8 * (3 - k)) 8 := by
  rw [digestBytes, List.getD_eq_getElem?_getD, getElem?_flatMap_of_length length_bytesOfWord _ _ _ hk]
  simp [bytesOfWord_getElem? _ k hk]

/-- Settles O56: H[j] is the word of its four bytes, which stand in the digest from 4j on. -/
theorem digestBytesAreBigEndian : Obligations.DigestBytesAreBigEndian := by
  intro h
  refine ⟨by simp [digestBytes, length_flatMap_of_length length_bytesOfWord], fun j => ?_⟩
  calc h[j].toNat = _ := congrArg BitVec.toNat (wordOfBytes_extract h[j]).symm
    _ = _ := toNat_wordOfBytes _ _ _ _
    _ = _ := by
      rw [← Nat.add_zero (4 * j.val), digestBytes_getD h j 0 (by decide), Nat.add_zero,
        digestBytes_getD h j 1 (by decide), digestBytes_getD h j 2 (by decide), digestBytes_getD h j 3 (by decide)]

/-! ### Eight hexadecimal digits of a word (R77) -/

@[simp] theorem length_toHex (w : Word) : (toHex w).length = 8 := by simp [toHex]

theorem toHex_getElem? (w : Word) (k : Nat) (hk : k < 8) :
    (toHex w)[k]? = some (hexChar (w.extractLsb' (4 * (7 - k)) 4)) := by
  simp [toHex, hk]

/-- The character of a nibble is the digit at its value (R77). -/
theorem hexChar_eq_digit (v : BitVec 4) :
    some (hexChar v) =
      ['0', '1', '2', '3', '4', '5', '6', '7', '8', '9', 'a', 'b', 'c', 'd', 'e', 'f'][v.toNat]? := by
  decide +revert

theorem hexChar_injective : Function.Injective hexChar := by
  intro v v'
  decide +revert

/-- Nibble `n` of a word, as a digit in base 16 (R10). -/
theorem toNat_nibble (w : Word) (n : Nat) : (w.extractLsb' (4 * n) 4).toNat = w.toNat / 16 ^ n % 16 := by
  rw [BitVec.extractLsb'_toNat, Nat.shiftRight_eq_div_pow, Nat.pow_mul]

/-- The eight nibbles tell words apart. -/
theorem eq_of_nibbles {w w' : Word} (h : ∀ n < 8, w.extractLsb' (4 * n) 4 = w'.extractLsb' (4 * n) 4) : w = w' := by
  refine BitVec.eq_of_getLsbD_eq fun i hi => ?_
  have hbit := congrArg (fun v => v.getLsbD (i % 4)) (h (i / 4) (by omega))
  simpa [Nat.mod_lt, Nat.div_add_mod] using hbit

/-- Character `8 * j + k` of the digest string is that of nibble `7 - k` of H[j] (R77). -/
theorem digestText_getElem? (h : Vector Word 8) (j : Fin 8) (k : Nat) (hk : k < 8) :
    (digestText h)[8 * j.val + k]? = some (hexChar (h[j].extractLsb' (4 * (7 - k)) 4)) := by
  rw [digestText, getElem?_flatMap_of_length length_toHex _ _ _ hk]
  simp [toHex_getElem? _ k hk]

/-- Equal strings have equal characters, so equal nibbles of every H[j] (R77). -/
theorem digestText_injective : Function.Injective digestText := by
  intro h h' heq
  ext j hj : 1
  refine eq_of_nibbles fun n hn => hexChar_injective (Option.some.inj ?_)
  have hchar := digestText_getElem? h ⟨j, hj⟩ (7 - n) (by omega)
  rw [heq, digestText_getElem? h' ⟨j, hj⟩ (7 - n) (by omega), Nat.sub_sub_self (by omega)] at hchar
  exact hchar.symm

/-- Settles O57, by the character at each place and the injectivity of `digestText`. -/
theorem digestTextIsFaithful : Obligations.DigestTextIsFaithful := by
  refine ⟨fun h => ⟨by simp [digestText, length_flatMap_of_length length_toHex], fun j k => ?_⟩,
    fun h h' heq => digestText_injective heq⟩
  rw [digestText_getElem? h j k k.isLt, hexChar_eq_digit, toNat_nibble]

end Sys2Proof.Machine
end

section
/-! SUPPORT. Padding (R78, R79). -/

namespace Sys2Proof.Machine

/-- The value of the `n` bytes of L from its lowest `8 * n` bits, the most significant one first (R78). -/
theorem foldl_bigEndianBytes (n L : Nat) :
    ((List.range n).map fun k => BitVec.ofNat 8 (L / 2 ^ (8 * (n - 1 - k)))).foldl (fun v b => 256 * v + b.toNat) 0 =
      L % 256 ^ n := by
  induction n generalizing L with
  | zero => simp [Nat.mod_one]
  | succ n ih =>
    have hhigh : (List.range n).map (fun k => BitVec.ofNat 8 (L / 2 ^ (8 * (n + 1 - 1 - k)))) =
        (List.range n).map fun k => BitVec.ofNat 8 (L / 256 / 2 ^ (8 * (n - 1 - k))) := by
      refine List.map_congr_left fun k hk => ?_
      have hexp : 8 * (n + 1 - 1 - k) = 8 + 8 * (n - 1 - k) := by have := List.mem_range.mp hk; omega
      rw [hexp, Nat.pow_add, Nat.div_div_eq_div_mul]
    rw [List.range_succ, List.map_append, List.foldl_append, hhigh, ih, Nat.pow_succ, Nat.mul_comm _ 256, Nat.mod_mul]
    simp [Nat.add_comm]

@[simp] theorem length_lengthBytes (L : Nat) : (lengthBytes L).length = 8 := by simp [lengthBytes]

/-- The length bytes are L in big-endian (R78). -/
theorem foldl_lengthBytes (L : Nat) (hL : L < 2 ^ 64) :
    (lengthBytes L).foldl (fun v b => 256 * v + b.toNat) 0 = L := by
  rw [lengthBytes, foldl_bigEndianBytes 8 L]
  omega

theorem padMessage_of_tooLarge (m : List Byte) (h : 2 ^ 64 ≤ 8 * m.length) :
    padMessage m = .error .inputTooLargeError := if_pos h

theorem padMessage_of_lt (m : List Byte) (h : 8 * m.length < 2 ^ 64) :
    padMessage m =
      .ok (m ++ [0x80] ++ List.replicate (zeroPadBytes m.length) 0 ++ lengthBytes (8 * m.length)) := by
  simpa [padMessage] using h

/-- The zero bytes are as many as a message of n bytes, 0x80 and 8 length bytes leave in a block of 64 (R78). -/
theorem zeroPadBytes_spec (n : Nat) : (n + 1 + zeroPadBytes n) % 64 = 56 ∧ zeroPadBytes n < 64 := by
  unfold zeroPadBytes
  omega

/-- Settles O58: the witness is `zeroPadBytes`, and 0x80, the zero bytes and the length fill the last block. -/
theorem paddingFillsWholeBlocks : Obligations.PaddingFillsWholeBlocks := by
  intro m
  refine ⟨padMessage_of_tooLarge m, fun h => ?_⟩
  obtain ⟨hmod, hlt⟩ := zeroPadBytes_spec m.length
  refine ⟨_, _, padMessage_of_lt m h, by omega, by omega, length_lengthBytes _, foldl_lengthBytes _ h,
    (m.length + 1 + zeroPadBytes m.length + 8) / 64, by omega, ?_⟩
  simp only [List.length_append, List.length_replicate, length_lengthBytes, List.length_singleton]
  omega

end Sys2Proof.Machine
end

section
/-! SUPPORT. What a repeated update makes of the state (R75). -/

namespace Sys2Proof.Machine

/-- The first read of a register without a value leaves the mark; the next one finds it (R12, R260). -/
theorem noteRead_noteRead (loc : Loc) (v : Option Word) (s : State) :
    noteRead loc v (noteRead loc v s) = noteRead loc v s := by
  cases v with
  | some x => rfl
  | none => simp

theorem writeH_writeH (j : Fin 8) (v : Word) (s : State) : writeH j v (writeH j v s) = writeH j v s := by
  simp [writeH]

theorem Status.messageWordLoaded_messageWordLoaded (i : Fin 16) (st : Status) :
    (st.messageWordLoaded i).messageWordLoaded i = st.messageWordLoaded i := by
  simp [Status.messageWordLoaded, BitVec.or_assoc]

theorem loadMessageWord_loadMessageWord (i : Fin 16) (v : Word) (s : State) :
    loadMessageWord i v (loadMessageWord i v s) = loadMessageWord i v s := by
  simp [loadMessageWord, Status.messageWordLoaded_messageWordLoaded]

/-- The repeated RDA reads the same word, and finds the mark that the first one may have left (R75, R185). -/
theorem execRda_repeated (j : Fin 8) (s : State) :
    execRda j (writeRes (readWr j s) (noteRead (.wr j) s.wr[j] s)) = execRda j s := by
  calc execRda j (writeRes (readWr j s) (noteRead (.wr j) s.wr[j] s))
    _ = .next (writeRes (readWr j s) (noteRead (.wr j) s.wr[j] (noteRead (.wr j) s.wr[j] s))) := rfl
    _ = execRda j s := by rw [noteRead_noteRead, execRda]

/-- Settles O38: a read command finds the word it reads where it was, and a load writes the same word again. -/
theorem repeatedCommandChangesNothingMore : Obligations.RepeatedCommandChangesNothingMore := by
  constructor
  · rintro i s t (rfl | ⟨k, rfl⟩ | ⟨k, rfl⟩ | ⟨j, rfl⟩ | ⟨j, rfl⟩) h
    · cases h; exact ⟨rfl, rfl⟩
    · cases h; exact ⟨rfl, rfl⟩
    · obtain ⟨x, hx, rfl⟩ := (execRdw_next k s t).mp h
      exact ⟨rfl, execRdw_some k (writeRes x s) x hx⟩
    · cases h; exact ⟨rfl, execRda_repeated j s⟩
    · cases h; exact ⟨rfl, rfl⟩
  · rintro i s t (⟨k, rfl⟩ | ⟨j, rfl⟩) h
    · cases h; exact congrArg Host.Outcome.next (loadMessageWord_loadMessageWord k s.opa s)
    · cases h; exact congrArg Host.Outcome.next (writeH_writeH j s.opa s)

end Sys2Proof.Machine
end

section
/-! SUPPORT. The decoder and the encoder against the command table: no two rows match one word, the two are inverse to each
other, and which words are legal (R100 to R106). -/

namespace Sys2Proof.Machine

/-! ### No two rows match one word (R104) -/

/-- Two rows of the command table differ in CLASS or FN (R104). -/
theorem commandTable_pairwise :
    commandTable.Pairwise fun r r' => r.pattern &&& 0xFF00#16 ≠ r'.pattern &&& 0xFF00#16 := by decide

/-- Settles O3: two rows that match a word have its CLASS and FN, and no two rows of the table share them. -/
theorem noTwoRowsMatchOneWord : Obligations.NoTwoRowsMatchOneWord := by
  intro c
  have hpair := commandTable_pairwise.sublist (List.filter_sublist (p := rowMatches c))
  have hclass : ∀ r ∈ commandTable.filter (rowMatches c), r.pattern &&& 0xFF00#16 = c &&& 0xFF00#16 := fun r hr =>
    (class_of_rowMatches (List.mem_of_mem_filter hr) (List.of_mem_filter hr)).symm
  match hl : commandTable.filter (rowMatches c) with
  | [] => simp
  | [_] => simp
  | r :: r' :: _ =>
    rw [hl] at hpair hclass
    have hne := List.rel_of_pairwise_cons hpair List.mem_cons_self
    exact absurd ((hclass r (by simp)).trans (hclass r' (by simp)).symm) hne

/-- A word decodes to what a row that matches it builds: no other row comes in between (R104, R105). -/
theorem decode_of_rowMatches {c : CmdWord} {r : Row} (hr : r ∈ commandTable) (h : rowMatches c r = true) :
    decode c = some (r.build (immField c)) := by
  have hmem : r ∈ commandTable.filter (rowMatches c) := List.mem_filter.mpr ⟨hr, h⟩
  obtain ⟨r', hl⟩ := List.length_eq_one_iff.mp
    (Nat.le_antisymm (noTwoRowsMatchOneWord c) (List.length_pos_of_mem hmem))
  obtain rfl : r = r' := by rwa [hl, List.mem_singleton] at hmem
  have hfind : commandTable.find? (rowMatches c) = some r := by rw [← List.head?_filter, hl, List.head?_cons]
  rw [decode, hfind]

/-- The decoder reads the table, row by row (R104, R105). -/
theorem decode_eq_some_iff (c : CmdWord) (i : Instr) :
    decode c = some i ↔ ∃ r ∈ commandTable, rowMatches c r = true ∧ r.build (immField c) = i := by
  refine ⟨exists_row_of_decode, ?_⟩
  rintro ⟨r, hr, hm, rfl⟩
  exact decode_of_rowMatches hr hm

/-- The legal words are those that a row of the table matches (R105, R106). -/
theorem isSome_decode_iff (c : CmdWord) :
    (decode c).isSome = true ↔ ∃ r ∈ commandTable, rowMatches c r = true := by
  simp [Option.isSome_iff_exists, decode_eq_some_iff]

/-! ### Decoding an encoded command (R104, R105) -/

/-- The word of every well-formed command stands in a row of the table (R104). -/
theorem encodedRow (i : Instr) : Laws.EncodedRow.Statement i := by
  cases i with
  | nop => exact Laws.EncodedRow.nop
  | clrerr => exact Laws.EncodedRow.clrerr
  | rdstat => exact Laws.EncodedRow.rdstat
  | add => exact Laws.EncodedRow.add
  | xor => exact Laws.EncodedRow.xor
  | rotr n => exact Laws.EncodedRow.rotr n
  | shr n => exact Laws.EncodedRow.shr n
  | ch => exact Laws.EncodedRow.ch
  | maj => exact Laws.EncodedRow.maj
  | usig0 => exact Laws.EncodedRow.usig0
  | usig1 => exact Laws.EncodedRow.usig1
  | lsig0 => exact Laws.EncodedRow.lsig0
  | lsig1 => exact Laws.EncodedRow.lsig1
  | ldw i => exact Laws.EncodedRow.ldw i
  | rdw i => exact Laws.EncodedRow.rdw i
  | expand => exact Laws.EncodedRow.expand
  | rdk i => exact Laws.EncodedRow.rdk i
  | rda j => exact Laws.EncodedRow.rda j
  | compress => exact Laws.EncodedRow.compress
  | init => exact Laws.EncodedRow.init
  | ldh j => exact Laws.EncodedRow.ldh j
  | rdh j => exact Laws.EncodedRow.rdh j
  | hashblk => exact Laws.EncodedRow.hashblk

/-- Settles O1: the word of a well-formed command stands in a row that builds the command, and no other row matches it. -/
theorem decodeOfEncodeIsIdentity : Obligations.DecodeOfEncodeIsIdentity := by
  intro i hi
  obtain ⟨r, hr, hm, hb⟩ := encodedRow i hi
  rw [decode_of_rowMatches hr hm, hb]

/-! ### The words of a row (R102, R104) -/

/-- How many values of IMM8 a row has: its mask wants the bits above the operand to be 0 (R102). -/
def operandCount (r : Row) : Nat := 0x10000 - r.mask.toNat

/-- The mask of a row is 1 above `k` operand bits, which lie in IMM8, and its pattern has 0 in IMM8 (R102, R104). -/
theorem row_shape : ∀ r ∈ commandTable, (∃ k ≤ 8, r.mask = BitVec.allOnes 16 <<< k ∧ operandCount r = 2 ^ k) ∧
    operandCount r ≤ 256 ∧ r.pattern.toNat % 256 = 0 := by decide

theorem toNat_classField (c : CmdWord) : (classField c).toNat = c.toNat / 4096 := by
  rw [classField, BitVec.extractLsb'_toNat, Nat.shiftRight_eq_div_pow]
  omega

theorem toNat_fnField (c : CmdWord) : (fnField c).toNat = c.toNat / 256 % 16 := by
  rw [fnField, BitVec.extractLsb'_toNat, Nat.shiftRight_eq_div_pow]

theorem toNat_immField (c : CmdWord) : (immField c).toNat = c.toNat % 256 := by
  simp [immField]

theorem toNat_and_highMask (c : CmdWord) (k : Nat) :
    (c &&& BitVec.allOnes 16 <<< k).toNat = c.toNat / 2 ^ k * 2 ^ k := by
  rw [← BitVec.shiftLeft_ushiftRight, BitVec.toNat_shiftLeft, BitVec.toNat_ushiftRight, Nat.shiftRight_eq_div_pow,
    Nat.shiftLeft_eq, Nat.mod_eq_of_lt]
  exact (Nat.div_mul_le_self _ _).trans_lt c.isLt

/-- A word matches a row exactly when it has the row's CLASS and FN and its IMM8 is an operand value (R102, R104). -/
theorem rowMatches_iff {r : Row} (hr : r ∈ commandTable) (c : CmdWord) :
    rowMatches c r = true ↔ classField c = classField r.pattern ∧ fnField c = fnField r.pattern ∧
      (immField c).toNat < operandCount r := by
  obtain ⟨⟨k, hk, hmask, hcount⟩, -, hzero⟩ := row_shape r hr
  simp only [rowMatches, beq_iff_eq, ← BitVec.toNat_inj, hmask, hcount, toNat_and_highMask, toNat_classField,
    toNat_fnField, toNat_immField]
  interval_cases k <;> omega

/-- The pattern has 0 where the IMM8 field goes. -/
theorem toNat_withImm {p : CmdWord} (hp : p.toNat % 256 = 0) (imm : Byte) :
    (withImm p imm).toNat = p.toNat + imm.toNat := by
  have hshift : p.toNat = (p.toNat / 256) <<< 8 := by omega
  rw [withImm, BitVec.toNat_or, BitVec.toNat_setWidth_of_le (by decide), hshift,
    Nat.shiftLeft_add_eq_or_of_lt imm.isLt]

/-- A word that matches a row is the row's pattern with the word's IMM8 put in (R104). -/
theorem eq_withImm_of_rowMatches {c : CmdWord} {r : Row} (hr : r ∈ commandTable) (h : rowMatches c r = true) :
    c = withImm r.pattern (immField c) := by
  obtain ⟨-, -, hzero⟩ := row_shape r hr
  obtain ⟨hclass, hfn, -⟩ := (rowMatches_iff hr c).mp h
  rw [← BitVec.toNat_inj] at hclass hfn
  rw [toNat_classField, toNat_classField] at hclass
  rw [toNat_fnField, toNat_fnField] at hfn
  apply BitVec.eq_of_toNat_eq
  rw [toNat_withImm hzero, toNat_immField]
  omega

/-! ### Encoding a decoded command (R104, R105) -/

/-- Where IMM8 is an operand value of the row, the command that the row builds is well-formed, and the encoder puts its
operand back into the row's pattern (R102, R104). -/
def BuildEncodes (r : Row) : Prop :=
  ∀ imm : Byte, imm.toNat < operandCount r →
    (r.build imm).wellFormed = true ∧ encode (r.build imm) = withImm r.pattern imm

/-- A row without an operand. -/
theorem buildEncodes_plain (i : Instr) (hwf : i.wellFormed = true) :
    BuildEncodes ⟨encode i, 0xFFFF#16, fun _ => i⟩ := by
  intro imm himm
  have hzero : imm.toNat = 0 := by simpa [operandCount] using himm
  obtain rfl : imm = 0#8 := BitVec.eq_of_toNat_eq hzero
  exact ⟨hwf, BitVec.or_zero.symm⟩

/-- A row whose `build` reads the operand `read imm`, which stands for the number `val (read imm)`. -/
theorem buildEncodes_operand {α : Type} {p mask : CmdWord} {read : Byte → α} {mk : α → Instr} {val : α → Nat}
    (hread : ∀ imm, imm.toNat < 0x10000 - mask.toNat → val (read imm) = imm.toNat)
    (hwf : ∀ a, val a < 256 → (mk a).wellFormed = true)
    (he : ∀ a, encode (mk a) = withImm p (BitVec.ofNat 8 (val a))) :
    BuildEncodes ⟨p, mask, fun imm => mk (read imm)⟩ := by
  intro imm himm
  have hval := hread imm himm
  refine ⟨hwf _ (hval.trans_lt imm.isLt), ?_⟩
  rw [he, hval, BitVec.ofNat_toNat, BitVec.setWidth_eq]

theorem val_index4Of (imm : Byte) (h : imm.toNat < 16) : (index4Of imm).val = imm.toNat := by
  simpa [index4Of] using h

theorem val_index6Of (imm : Byte) (h : imm.toNat < 64) : (index6Of imm).val = imm.toNat := by
  simpa [index6Of] using h

theorem val_index3Of (imm : Byte) (h : imm.toNat < 8) : (index3Of imm).val = imm.toNat := by
  simpa [index3Of] using h

/-- Every row, in the order of the table: CTRL, ALU, MIX, SCHED, ROUND, CHAIN (R104). -/
theorem buildEncodes_of_mem : ∀ r ∈ commandTable, BuildEncodes r := by
  have val_amountOf (imm : Byte) (_ : imm.toNat < 256) : id (amountOf imm) = imm.toNat := rfl
  simp only [commandTable, rowsCtrlAlu, rowsMix, rowsSchedRound, rowsChain, List.cons_append, List.nil_append,
    List.forall_mem_cons]
  exact ⟨buildEncodes_plain .nop rfl, buildEncodes_plain .clrerr rfl, buildEncodes_plain .rdstat rfl,
    buildEncodes_plain .add rfl, buildEncodes_plain .xor rfl,
    buildEncodes_operand val_amountOf (fun _ => decide_eq_true) fun _ => rfl,
    buildEncodes_operand val_amountOf (fun _ => decide_eq_true) fun _ => rfl,
    buildEncodes_plain .ch rfl, buildEncodes_plain .maj rfl,
    buildEncodes_plain .usig0 rfl, buildEncodes_plain .usig1 rfl,
    buildEncodes_plain .lsig0 rfl, buildEncodes_plain .lsig1 rfl,
    buildEncodes_operand val_index4Of (fun _ _ => rfl) fun _ => rfl,
    buildEncodes_operand val_index6Of (fun _ _ => rfl) fun _ => rfl,
    buildEncodes_plain .expand rfl,
    buildEncodes_operand val_index6Of (fun _ _ => rfl) fun _ => rfl,
    buildEncodes_operand val_index3Of (fun _ _ => rfl) fun _ => rfl,
    buildEncodes_plain .compress rfl,
    buildEncodes_plain .init rfl,
    buildEncodes_operand val_index3Of (fun _ _ => rfl) fun _ => rfl,
    buildEncodes_operand val_index3Of (fun _ _ => rfl) fun _ => rfl,
    buildEncodes_plain .hashblk rfl, List.forall_mem_nil _⟩

/-- Settles O2: the word matches a row, so it is the row's pattern with its IMM8 put in, which is what the encoder makes. -/
theorem decodedWordIsItsEncoding : Obligations.DecodedWordIsItsEncoding := by
  intro c i h
  obtain ⟨r, hr, hm, rfl⟩ := exists_row_of_decode h
  obtain ⟨-, -, himm⟩ := (rowMatches_iff hr c).mp hm
  obtain ⟨hwf, henc⟩ := buildEncodes_of_mem r hr (immField c) himm
  exact ⟨hwf, henc.trans (eq_withImm_of_rowMatches hr hm).symm⟩

/-! ### How many words are legal (R106) -/

/-- The words of a row: its pattern with every operand value put in (R104). -/
def rowWords (r : Row) : List CmdWord :=
  (List.range (operandCount r)).map fun v => withImm r.pattern (BitVec.ofNat 8 v)

/-- The words of a row are those that match it. -/
theorem mem_rowWords_iff {r : Row} (hr : r ∈ commandTable) (c : CmdWord) :
    c ∈ rowWords r ↔ rowMatches c r = true := by
  obtain ⟨-, hle, hzero⟩ := row_shape r hr
  simp only [rowWords, List.mem_map, List.mem_range, rowMatches_iff hr, ← BitVec.toNat_inj, toNat_withImm hzero,
    toNat_classField, toNat_fnField, toNat_immField, BitVec.toNat_ofNat]
  constructor
  · rintro ⟨v, hv, hc⟩
    omega
  · rintro ⟨hclass, hfn, himm⟩
    exact ⟨_, himm, by omega⟩

theorem nodup_rowWords {r : Row} (hr : r ∈ commandTable) : (rowWords r).Nodup := by
  obtain ⟨-, hle, hzero⟩ := row_shape r hr
  refine List.Nodup.map_on (fun v hv v' hv' heq => ?_) List.nodup_range
  have h := congrArg BitVec.toNat heq
  simp only [toNat_withImm hzero, BitVec.toNat_ofNat, List.mem_range] at h hv hv'
  omega

/-- Settles O4: the words of the rows, one row after another. No word stands twice, since a word has the CLASS and FN of
one row only. -/
theorem exactlySixHundredNinetyFiveLegalWords : Obligations.ExactlySixHundredNinetyFiveLegalWords := by
  refine ⟨commandTable.flatMap rowWords, List.nodup_flatMap.mpr ⟨fun r => nodup_rowWords, ?_⟩, ?_, fun c => ?_⟩
  · refine commandTable_pairwise.imp_of_mem fun {r r'} hr hr' hne c hc hc' => hne ?_
    rw [← class_of_rowMatches hr ((mem_rowWords_iff hr c).mp hc),
      class_of_rowMatches hr' ((mem_rowWords_iff hr' c).mp hc')]
  · simp only [List.length_flatMap, rowWords, List.length_map, List.length_range]
    decide
  · rw [isSome_decode_iff, List.mem_flatMap]
    exact exists_congr fun r => and_congr_right fun hr => mem_rowWords_iff hr c

/-! ### The map of CLASS and FN (R103) -/

/-- CLASS and FN of a row's words, and how many values their IMM8 has. -/
def rowFields (r : Row) : BitVec 4 × BitVec 4 × Nat := (classField r.pattern, fnField r.pattern, operandCount r)

/-- The map of R103 with the operand ranges of R102, one CLASS a line. -/
theorem rowFields_commandTable : commandTable.map rowFields =
    [ (0, 0, 1), (0, 1, 1), (0, 2, 1),
      (1, 0, 1), (1, 1, 1), (1, 2, 256), (1, 3, 256),
      (2, 0, 1), (2, 1, 1), (2, 2, 1), (2, 3, 1), (2, 4, 1), (2, 5, 1),
      (3, 0, 16), (3, 1, 64), (3, 2, 1),
      (4, 0, 64), (4, 1, 8), (4, 2, 1),
      (5, 0, 1), (5, 1, 8), (5, 2, 8), (5, 3, 1) ] := by decide

/-- A word is legal exactly when its CLASS and FN stand in the map and its IMM8 is in the range there. -/
theorem isSome_decode_iff_rowFields (c : CmdWord) :
    (decode c).isSome = true ↔
      ∃ e ∈ commandTable.map rowFields, classField c = e.1 ∧ fnField c = e.2.1 ∧ (immField c).toNat < e.2.2 := by
  rw [isSome_decode_iff]
  constructor
  · rintro ⟨r, hr, hm⟩
    exact ⟨rowFields r, List.mem_map_of_mem hr, (rowMatches_iff hr c).mp hm⟩
  · rintro ⟨_, he, hfields⟩
    obtain ⟨r, hr, rfl⟩ := List.mem_map.mp he
    exact ⟨r, hr, (rowMatches_iff hr c).mpr hfields⟩

/-- Settles O5: both sides are the same cases of CLASS, FN and the range of IMM8. -/
theorem legalWordsByClassAndFunction : Obligations.LegalWordsByClassAndFunction := by
  intro c
  simp only [isSome_decode_iff_rowFields, rowFields_commandTable, List.mem_cons, List.not_mem_nil, or_false,
    exists_eq_or_imp, exists_eq_left]
  generalize classField c = cls, fnField c = fn, immField c = imm
  have hle1 : fn ≤ 1#4 ↔ fn = 0#4 ∨ fn = 1#4 := by decide +revert
  have hle2 : fn ≤ 2#4 ↔ fn = 0#4 ∨ fn = 1#4 ∨ fn = 2#4 := by decide +revert
  have hle5 : fn ≤ 5#4 ↔ fn = 0#4 ∨ fn = 1#4 ∨ fn = 2#4 ∨ fn = 3#4 ∨ fn = 4#4 ∨ fn = 5#4 := by decide +revert
  have hzero : imm = 0#8 ↔ imm.toNat < 1 := by rw [← BitVec.toNat_inj]; exact Nat.lt_one_iff.symm
  have hall : imm.toNat < 256 ↔ True := iff_true_intro imm.isLt
  have hlt (n : Nat) (hn : n < 256) : imm < BitVec.ofNat 8 n ↔ imm.toNat < n := by
    rw [BitVec.lt_def, BitVec.toNat_ofNat, Nat.mod_eq_of_lt hn]
  simp only [BitVec.ofNat_eq_ofNat, hle1, hle2, hle5, hzero, hall, hlt 8 (by decide), hlt 16 (by decide),
    hlt 64 (by decide), and_true, and_or_left, or_and_right, or_assoc]
  exact iff_of_eq (by ac_rfl)

/-! ### Words written out (R104, R106) -/

/-- Settles O6: the legal words are encodings, and no row matches the illegal ones. -/
theorem wordsOfEveryClassDecode : Obligations.WordsOfEveryClassDecode :=
  ⟨decodeOfEncodeIsIdentity .rdstat rfl, decodeOfEncodeIsIdentity (.rotr 13) rfl, decodeOfEncodeIsIdentity .maj rfl,
    decodeOfEncodeIsIdentity (.rdw 63) rfl, decodeOfEncodeIsIdentity (.rda 5) rfl, decodeOfEncodeIsIdentity (.ldh 3) rfl,
    decode_eq_none (by decide), decode_eq_none (by decide)⟩

end Sys2Proof.Machine
end

section
/-! SUPPORT. A step on an accepted word, legal or not (R105, R106, R252, R254, R286). -/

namespace Sys2Proof.Machine

/-- Settles O41: the step is the accepting edge of the state without the pins it takes from the Host's list. -/
theorem stepRunsDecodedCommand : Obligations.StepRunsDecodedCommand := by
  intro s p rest i hhost hidle hr hv hd
  rw [step_cons s p rest hhost]
  exact transactEdge_accept p { s with host := rest } i hr hv hidle hd

/-- The transaction-level edge of an accepted illegal word (R106, R254). -/
theorem transactEdge_illegal (p : Pins) (s : State) (hr : p.rstN = true) (hv : p.cmdValid = true)
    (hi : s.phase = .idle) (hd : decode p.tx.cmd = none) :
    transactEdge p s = .next (raiseCoreError .illegalCommand (sample p.tx s)) := by
  rw [transactEdge, clockEdge_accept _ _ _ _ hr hv hi, runSampled_none _ _ hd]

/-- Raising an error records its code where no error is recorded, and changes nothing else (R251 to R253). -/
theorem raiseCoreError_eq_withErrorCode (e : CoreError) (s : State) :
    raiseCoreError e s = withErrorCode (errorCode e) s := rfl

/-- Settles O34: the step is the edge that accepts an illegal word, and `illegalCommand` has code 1. -/
theorem illegalWordRaisesCodeOne : Obligations.IllegalWordRaisesCodeOne := by
  intro s p rest hhost hidle hr hv hd
  rw [step_cons s p rest hhost, transactEdge_illegal p { s with host := rest } hr hv hidle hd,
    raiseCoreError_eq_withErrorCode]
  rfl

end Sys2Proof.Machine
end

section
/-! SUPPORT. The rotation bit by bit, and the pseudo-instructions ROTL and SETRES (R11, R110, R142). -/

namespace Sys2Proof.Machine

theorem rotr_eq_rotateRight (x : Word) (n : Nat) : rotr x n = x.rotateRight n := by
  rw [rotr]
  split
  next h => simp [BitVec.rotateRight, BitVec.rotateRightAux, h]
  next h => rfl

/-- Bit `k` of a rotation is the bit `n` places above it, around the word (R11, R142). -/
theorem getLsbD_rotr (x : Word) (n k : Nat) (hk : k < 32) : (rotr x n).getLsbD k = x.getLsbD ((k + n) % 32) := by
  rw [rotr_eq_rotateRight, BitVec.getLsbD_rotateRight]
  by_cases h : k < 32 - n % 32
  · simp only [h, decide_true, cond_true]
    congr 1
    omega
  · simp only [h, decide_false, cond_false, hk, decide_true, Bool.true_and]
    congr 1
    omega

/-- Settles O60: a rotation right by `(32 - n % 32) % 32` is one left by `n`, and XOR with the unused operand's 0 is the
word itself. -/
theorem pseudoRotlAndSetres : Obligations.PseudoRotlAndSetres := by
  refine fun s x n => ⟨⟨Line.word (.rotr ((32 - n % 32) % 32)) x, _, rfl, ?_, rfl, fun k hk => ?_⟩,
    ⟨.xor, x, 0, 0⟩, rfl, decodeOfEncodeIsIdentity .xor rfl, ?_⟩
  · exact decodeOfEncodeIsIdentity _ (decide_eq_true (by omega))
  · calc (rotr x ((32 - n % 32) % 32)).getLsbD ((k + n) % 32)
      _ = x.getLsbD (((k + n) % 32 + (32 - n % 32) % 32) % 32) := getLsbD_rotr _ _ _ (Nat.mod_lt _ (by decide))
      _ = x.getLsbD k := by congr 1; omega
  · exact congrArg (fun v => Host.Outcome.next (writeRes v _)) (BitVec.xor_zero : x ^^^ 0#32 = x)

end Sys2Proof.Machine
end

section
/-! SUPPORT. An operand word that a command does not use has no effect (R101, R104). -/

namespace Sys2Proof.Machine

/-- `s` with the transaction `x`. -/
def withTx (x : Transaction) (s : State) : State := { s with tx := x }

@[simp] theorem withTx_status (x : Transaction) (s : State) : (withTx x s).status = s.status := rfl
@[simp] theorem withTx_opa (x : Transaction) (s : State) : (withTx x s).opa = x.opa := rfl
@[simp] theorem withTx_opb (x : Transaction) (s : State) : (withTx x s).opb = x.opb := rfl
@[simp] theorem withTx_opc (x : Transaction) (s : State) : (withTx x s).opc = x.opc := rfl

/-- An answer with the transaction `x` in its next state. -/
def answerWithTx (x : Transaction) (r : Result) : Result := andThen r fun u => .next (withTx x u)

/-- The expansion over the storage reads no operand word (R164). -/
theorem expandStorage_withTx {x : Transaction} {s : State} {rest : Vector Word 64 → State → Result}
    (hrest : ∀ S u, rest S (withTx x u) = answerWithTx x (rest S u)) :
    expandStorage (withTx x s) rest = answerWithTx x (expandStorage s rest) := by
  have hread : readMessage (withTx x s) = readMessage s := rfl
  rw [expandStorage, expandStorage, hread]
  cases readMessage s with
  | ok m => exact hrest (expand m) { s with w := storeSchedule (expand m) s.w }
  | error f => rfl

theorem execExpand_withTx (x : Transaction) (s : State) :
    execExpand (withTx x s) = answerWithTx x (execExpand s) := by
  rw [execExpand, execExpand, withTx_status]
  split
  · exact expandStorage_withTx fun _ _ => rfl
  · rfl

theorem execHashblk_withTx (x : Transaction) (s : State) :
    execHashblk (withTx x s) = answerWithTx x (execHashblk s) := by
  rw [execHashblk, execHashblk, withTx_status]
  split
  · exact expandStorage_withTx fun _ _ => rfl
  · rfl

theorem execCompress_withTx (x : Transaction) (s : State) :
    execCompress (withTx x s) = answerWithTx x (execCompress s) := by
  have hread : readSchedule (withTx x s) = readSchedule s := rfl
  rw [execCompress, execCompress, withTx_status, hread]
  split
  · cases readSchedule s <;> rfl
  · rfl

theorem execRdw_withTx (k : Fin 64) (x : Transaction) (s : State) :
    execRdw k (withTx x s) = answerWithTx x (execRdw k s) := by
  have hread : readW k (withTx x s) = readW k s := rfl
  rw [execRdw, execRdw, hread]
  cases readW k s <;> rfl

/-- Where the transaction `x` has the operand words that a command uses, the command answers the same with it, but for
the transaction itself (R101, R104). -/
theorem exec_withTx (i : Instr) (x : Transaction) (s : State) (ha : usesOpa i = true → x.opa = s.opa)
    (hb : usesOpb i = true → x.opb = s.opb) (hc : usesOpc i = true → x.opc = s.opc) :
    exec i (withTx x s) = answerWithTx x (exec i s) := by
  cases i with
  | expand => exact execExpand_withTx x s
  | hashblk => exact execHashblk_withTx x s
  | compress => exact execCompress_withTx x s
  | rdw k => exact execRdw_withTx k x s
  | nop | clrerr | rdstat | rdk | rda | init | rdh => rfl
  | rotr | shr | usig0 | usig1 | lsig0 | lsig1 | ldw | ldh =>
    have ha := ha rfl
    simp only [exec, execRotr, execShr, execUsig0, execUsig1, execLsig0, execLsig1, execLdw, execLdh, withTx_opa, ha]
    rfl
  | add | xor =>
    simp only [exec, execAdd, execXor, withTx_opa, withTx_opb, ha rfl, hb rfl]
    rfl
  | ch | maj =>
    simp only [exec, execCh, execMaj, withTx_opa, withTx_opb, withTx_opc, ha rfl, hb rfl, hc rfl]
    rfl

/-- Settles O40: the state `t` is `s` with the transaction of `t`. -/
theorem unusedOperandsHaveNoEffect : Obligations.UnusedOperandsHaveNoEffect := by
  rintro i s t ⟨hst, -, ha, hb, hc⟩
  have ht : t = withTx t.tx s := by rw [← hst]; rfl
  have hexec : exec i t = answerWithTx t.tx (exec i s) := ht ▸ exec_withTx i t.tx s ha hb hc
  refine ⟨fun s' h => ?_, fun f h => ?_⟩ <;> rw [hexec, h] <;> rfl

end Sys2Proof.Machine
end

section
/-! SUPPORT. The ALU commands ADD, XOR, ROTR and SHR: their words, their results bit by bit, and the laws of the word
operations (R11, R104, R140 to R144). -/

namespace Sys2Proof.Machine

/-! ### The words of a command (R104, R105) -/

/-- A word decodes to a command exactly when the command is well-formed and the word is its encoding. -/
theorem decode_eq_some_iff_encode (c : CmdWord) (i : Instr) :
    decode c = some i ↔ i.wellFormed = true ∧ c = encode i := by
  constructor
  · intro h
    obtain ⟨hwf, henc⟩ := decodedWordIsItsEncoding c i h
    exact ⟨hwf, henc.symm⟩
  · rintro ⟨hwf, rfl⟩
    exact decodeOfEncodeIsIdentity i hwf

/-- A command that is well-formed whatever its operand has one word, its encoding. -/
theorem decode_eq_some_iff_of_wellFormed {i : Instr} (hwf : i.wellFormed = true) (c : CmdWord) :
    decode c = some i ↔ c = encode i :=
  (decode_eq_some_iff_encode c i).trans (and_iff_right hwf)

/-- An amount of IMM8 stands as it is in the low byte of the word (R102). -/
theorem withImm_ofNat (pattern : CmdWord) {n : Nat} (hn : n < 256) :
    withImm pattern (BitVec.ofNat 8 n) = pattern ||| BitVec.ofNat 16 n := by
  rw [withImm, BitVec.setWidth_ofNat_of_le_of_lt (by decide) hn]

/-- The words of a command `i` with an amount in 0..255 (R102, R104). -/
theorem decode_eq_some_iff_amount {i : Instr} {n : Nat} {pattern : CmdWord}
    (hwf : i.wellFormed = decide (n < 256)) (henc : encode i = withImm pattern (BitVec.ofNat 8 n)) (c : CmdWord) :
    decode c = some i ↔ n < 256 ∧ c = pattern ||| BitVec.ofNat 16 n := by
  rw [decode_eq_some_iff_encode, hwf, decide_eq_true_iff, henc]
  exact and_congr_right fun hn => by rw [withImm_ofNat pattern hn]

/-! ### The shift bit by bit (R143) -/

/-- From 32 places on the shift is zero by its definition, and a shift of the word is zero there anyway. -/
theorem shr_eq_ushiftRight (x : Word) (n : Nat) : shr x n = x >>> n := by
  rw [shr]
  split
  next h => exact (BitVec.ushiftRight_eq_zero h).symm
  next h => rfl

/-- Bit `k` of a shift is the bit `n` places above it, or 0 above the word (R11, R143). -/
theorem getLsbD_shr (x : Word) (n k : Nat) : (shr x n).getLsbD k = x.getLsbD (k + n) := by
  rw [shr_eq_ushiftRight, BitVec.getLsbD_ushiftRight, Nat.add_comm]

/-! ### The four commands (R140 to R143) -/

/-- Settles O7: RES takes the sum of the words, which is the sum of the numbers mod 2^32. -/
theorem addWritesModularSum : Obligations.AddWritesModularSum :=
  ⟨decode_eq_some_iff_of_wellFormed rfl, fun s => ⟨s.opa + s.opb, rfl, BitVec.toNat_add s.opa s.opb⟩⟩

/-- Settles O8: RES takes the exclusive or of the words, which is that of each bit. -/
theorem xorWritesBitwiseExclusiveOr : Obligations.XorWritesBitwiseExclusiveOr :=
  ⟨decode_eq_some_iff_of_wellFormed rfl, fun s => ⟨s.opa ^^^ s.opb, rfl, fun _ _ => BitVec.getLsbD_xor⟩⟩

/-- Settles O9: bit `k` of the rotation is bit `(k + n) % 32` of the operand. -/
theorem rotrRotatesEveryBit : Obligations.RotrRotatesEveryBit := by
  refine ⟨fun c n => decode_eq_some_iff_amount rfl rfl c, fun s n _ => ⟨rotr s.opa n, rfl, fun k hk => ?_⟩⟩
  rw [getLsbD_rotr s.opa n k hk, Nat.add_mod_mod]

/-- Settles O10: bit `k` of the shift is bit `k + n` of the operand, and there is none from bit 32 on. -/
theorem shrShiftsEveryBit : Obligations.ShrShiftsEveryBit := by
  refine ⟨fun c n => decode_eq_some_iff_amount rfl rfl c, fun s n _ => ⟨shr s.opa n, rfl, fun k _ => ?_⟩⟩
  rw [getLsbD_shr]
  split
  next h => rfl
  next h => exact BitVec.getLsbD_of_ge _ _ (by omega)

/-! ### The laws of the word operations (R144) -/

/-- A rotation takes its amount mod 32. -/
theorem rotr_mod (x : Word) (n : Nat) : rotr x (n % 32) = rotr x n := by
  rw [rotr, Nat.mod_mod, rotr]

theorem rotr_zero (x : Word) : rotr x 0 = x := rfl

/-- Two rotations are one by the sum: each moves the bit it reads by its amount, around the word. -/
theorem rotr_rotr (x : Word) (p q : Nat) : rotr (rotr x p) q = rotr x (p + q) := by
  apply BitVec.eq_of_getLsbD_eq
  intro k hk
  calc (rotr (rotr x p) q).getLsbD k
    _ = (rotr x p).getLsbD ((k + q) % 32) := getLsbD_rotr _ q k hk
    _ = x.getLsbD (((k + q) % 32 + p) % 32) := getLsbD_rotr x p _ (Nat.mod_lt _ (by decide))
    _ = x.getLsbD ((k + (p + q)) % 32) := by congr 1; omega
    _ = (rotr x (p + q)).getLsbD k := (getLsbD_rotr x (p + q) k hk).symm

/-- A shift by 32 or more moves every bit out of the word. -/
theorem shr_of_le (x : Word) {n : Nat} (hn : 32 ≤ n) : shr x n = 0 := if_pos hn

/-- A shift is the rotation with the bits that came around masked out. From 32 places on the mask is 0, as is the
shift. -/
theorem shr_eq_rotr_and (x : Word) (n : Nat) : shr x n = rotr x n &&& (0xFFFFFFFF#32 >>> n) := by
  apply BitVec.eq_of_getLsbD_eq
  intro k hk
  have hmask : (0xFFFFFFFF#32 >>> n).getLsbD k = decide (n + k < 32) := by
    rw [BitVec.getLsbD_ushiftRight]
    exact BitVec.getLsbD_allOnes
  rw [BitVec.getLsbD_and, hmask, getLsbD_shr, getLsbD_rotr x n k hk]
  by_cases h : n + k < 32
  · rw [Nat.mod_eq_of_lt (by omega), decide_eq_true h, Bool.and_true]
  · rw [BitVec.getLsbD_of_ge x (k + n) (by omega), decide_eq_false h, Bool.and_false]

/-- Settles O11: the laws of the rotation and the shift, and the library's for addition and exclusive or. -/
theorem wordOperationLaws : Obligations.WordOperationLaws := by
  intro x y z n p q
  exact ⟨BitVec.xor_self, BitVec.add_zero x, (rotr_mod x 32).symm.trans (rotr_zero x), (rotr_mod x n).symm,
    shr_of_le x (Nat.le_refl 32), ⟨BitVec.add_comm x y, BitVec.add_assoc x y z⟩,
    ⟨BitVec.xor_comm x y, BitVec.xor_assoc x y z, BitVec.xor_zero⟩, rotr_rotr x p q, shr_of_le x,
    fun _ => shr_eq_rotr_and x n⟩

end Sys2Proof.Machine
end

section
/-! SUPPORT. The message schedule: LSIG0 and LSIG1 bit by bit, LDW, RDW, and EXPAND with the recurrence of `Expand` (R160 to
R165). -/

namespace Sys2Proof.Machine

/-! ### Two rotations and a shift (R160, R161) -/

/-- Bit `k` of a shift, with the zeros above the word written out (R143). -/
theorem getLsbD_shr_eq_ite (x : Word) (n k : Nat) :
    (shr x n).getLsbD k = if k + n ≤ 31 then x.getLsbD (k + n) else false := by
  rw [getLsbD_shr]
  split
  next => rfl
  next h => exact BitVec.getLsbD_of_ge x _ (by omega)

/-- Bit `k` of the exclusive or of two rotations and a shift, the form of both lower Sigma functions. -/
theorem getLsbD_rotr_xor_rotr_xor_shr (x : Word) (p q n k : Nat) (hk : k < 32) :
    (rotr x p ^^^ rotr x q ^^^ shr x n).getLsbD k =
      (x.getLsbD ((k + p) % 32) ^^ x.getLsbD ((k + q) % 32) ^^ if k + n ≤ 31 then x.getLsbD (k + n) else false) := by
  simp only [BitVec.getLsbD_xor, getLsbD_rotr x _ k hk, getLsbD_shr_eq_ite]

theorem rotr_xor (x y : Word) (n : Nat) : rotr (x ^^^ y) n = rotr x n ^^^ rotr y n := by
  refine BitVec.eq_of_getLsbD_eq fun k hk => ?_
  simp only [BitVec.getLsbD_xor, getLsbD_rotr _ n k hk]

theorem shr_xor (x y : Word) (n : Nat) : shr (x ^^^ y) n = shr x n ^^^ shr y n := by
  simp only [shr_eq_ushiftRight, BitVec.ushiftRight_xor_distrib]

theorem lsig0_xor (x y : Word) : lsig0 (x ^^^ y) = lsig0 x ^^^ lsig0 y := by
  simp only [lsig0, rotr_xor, shr_xor]
  ac_rfl

theorem lsig1_xor (x y : Word) : lsig1 (x ^^^ y) = lsig1 x ^^^ lsig1 y := by
  simp only [lsig1, rotr_xor, shr_xor]
  ac_rfl

/-- Settles O15: both functions are two rotations and a shift, each of which is linear and moves single bits. -/
theorem lowerSigmasXorTwoRotationsAndShift : Obligations.LowerSigmasXorTwoRotationsAndShift :=
  ⟨decode_eq_some_iff_of_wellFormed rfl, decode_eq_some_iff_of_wellFormed rfl,
    fun x y => ⟨lsig0_xor x y, lsig1_xor x y⟩,
    fun s => ⟨lsig0 s.opa, lsig1 s.opa, rfl, rfl, fun k hk =>
      ⟨getLsbD_rotr_xor_rotr_xor_shr s.opa 7 18 3 k hk, getLsbD_rotr_xor_rotr_xor_shr s.opa 17 19 10 k hk⟩⟩⟩

/-! ### LDW and RDW (R162, R163) -/

/-- The words of a command `i` whose operand is the index `n` (R102, R104). -/
theorem decode_eq_some_iff_index {i : Instr} {n : Nat} {pattern : CmdWord} (hwf : i.wellFormed = true) (hn : n < 256)
    (henc : encode i = withImm pattern (BitVec.ofNat 8 n)) (c : CmdWord) :
    decode c = some i ↔ c = pattern ||| BitVec.ofNat 16 n := by
  rw [decode_eq_some_iff_of_wellFormed hwf, henc, withImm_ofNat pattern hn]

/-- A word with the CLASS and FN of a row, and one of the bits `zeros` set that the row wants 0, is illegal (R102, R106). -/
theorem decode_eq_none_of_zeros {pattern mask zeros : CmdWord}
    (hrow : ∀ r ∈ commandTable, r.pattern &&& 0xFF00#16 = pattern → r.mask = mask ∧ r.pattern = pattern)
    (hmask : mask &&& zeros = zeros) (hpattern : pattern &&& zeros = 0) (c : CmdWord)
    (hc : c &&& 0xFF00#16 = pattern) (hz : c &&& zeros ≠ 0) : decode c = none := by
  refine decode_eq_none_of_imm hrow hc fun hm => hz ?_
  calc c &&& zeros = c &&& mask &&& zeros := by rw [BitVec.and_assoc, hmask]
    _ = 0 := by rw [hm, hpattern]

/-- LDW writes W[i] only (R162). -/
theorem loadMessageWord_w_getElem (i : Fin 16) (v : Word) (s : State) (k : Fin 64) :
    (loadMessageWord i v s).w[k] = if k.val = i.val then some v else s.w[k] := by
  simp [Vector.getElem_set, eq_comm]

/-- LDW sets WVALID[i] only (R162). -/
theorem Status.messageWordLoaded_wvalid_getLsbD (i : Fin 16) (st : Status) (k : Nat) :
    (st.messageWordLoaded i).wvalid.getLsbD k = if k = i.val then true else st.wvalid.getLsbD k := by
  rw [messageWordLoaded_wvalid, BitVec.getLsbD_or, BitVec.getLsbD_twoPow]
  by_cases h : k = i.val
  · simp [h]
  · simp [h, Ne.symm h]

/-- Settles O16: the next state is that of `loadMessageWord`. -/
theorem ldwLoadsOneMessageWord : Obligations.LdwLoadsOneMessageWord :=
  ⟨fun c i => decode_eq_some_iff_index rfl (by omega) rfl c,
    decode_eq_none_of_zeros (mask := 0xFFF0#16) (by decide) (by decide) (by decide),
    fun s i => ⟨loadMessageWord i s.opa s, rfl, rfl, loadMessageWord_w_getElem i s.opa s,
      fun k _ => s.status.messageWordLoaded_wvalid_getLsbD i k⟩⟩

/-- Settles O17. -/
theorem rdwReadsWordOrFaults : Obligations.RdwReadsWordOrFaults :=
  ⟨fun c i => decode_eq_some_iff_index rfl (by omega) rfl c,
    decode_eq_none_of_zeros (mask := 0xFFC0#16) (by decide) (by decide) (by decide),
    fun s i => ⟨execRdw_some i s, execRdw_none i s⟩⟩

/-! ### Expand and EXPAND (R164, R165) -/

/-- `Expand` keeps the message words below 16 (R165). -/
theorem expand_message (m : Vector Word 16) (t : Nat) (h : t < 16) : (expand m)[t] = m[t] := by
  simp only [expand_eq_expandPasses, expandPasses_message m 48 le_rfl t h]

/-- `Expand` copies the message and follows the recurrence (R165). -/
theorem isExpansion_expand (m : Vector Word 16) : IsExpansion m (expand m) :=
  ⟨expand_message m, expand_recurrence m⟩

/-- The recurrence leaves no choice: by induction on the index, two expansions of one message have the same words. -/
theorem IsExpansion.unique {m : Vector Word 16} {S S' : Vector Word 64} (h : IsExpansion m S) (h' : IsExpansion m S') :
    S = S' := by
  obtain ⟨hmessage, hrec⟩ := h
  obtain ⟨hmessage', hrec'⟩ := h'
  ext t ht : 1
  induction t using Nat.strong_induction_on with
  | _ t ih =>
    by_cases h16 : t < 16
    · rw [hmessage t h16, hmessage' t h16]
    · rw [hrec t (by omega) ht, hrec' t (by omega) ht, ih (t - 2) (by omega), ih (t - 7) (by omega),
        ih (t - 15) (by omega), ih (t - 16) (by omega)]

/-- Settles O18. -/
theorem expandFollowsRecurrence : Obligations.ExpandFollowsRecurrence :=
  fun m => ⟨isExpansion_expand m, fun _ hS => hS.unique (isExpansion_expand m)⟩

/-- Settles O19: without all message words EXPAND raises its error, of code 3; with them it stores their expansion. -/
theorem expandCommandFillsSchedule : Obligations.ExpandCommandFillsSchedule := by
  refine ⟨decode_eq_some_iff_of_wellFormed rfl, fun s hw => ?_, fun s m hw hm => ?_⟩
  · have hc : s.status.messageComplete = false :=
      Bool.eq_false_iff.mpr (mt (Status.messageComplete_iff _).mp hw)
    exact execExpand_incomplete s hc
  · have hc : s.status.messageComplete = true := (Status.messageComplete_iff _).mpr hw
    exact ⟨expand m, _, isExpansion_expand m, execExpand_complete s hc m hm, rfl,
      fun k => storeSchedule_getElem (expand m) s.w k k.isLt⟩

end Sys2Proof.Machine
end

section
/-! SUPPORT. Runs of steps, what a step from a state of the invariant can do, and the machine of one phase a cycle against the
atomic command (R9, R12, R163, R166, R188, R213). -/

namespace Sys2Proof.Machine

/-! ### Runs of steps (R12, R260) -/

/-- `k` steps of the machine, as its own type of outcomes says it. -/
def runSteps (k : Nat) (s : State) : Result := Sys2Proof.core.run k s

@[simp] theorem runSteps_zero (s : State) : runSteps 0 s = .next s := rfl

theorem runSteps_succ (k : Nat) (s : State) : runSteps (k + 1) s = andThen (step s) (runSteps k) := by
  have hstep : Sys2Proof.core.step s = step s := rfl
  simp only [runSteps, Host.Core.run, hstep]
  cases step s <;> rfl

/-- A run is its first `j` steps, then the rest. -/
theorem runSteps_add (j k : Nat) (s : State) : runSteps (j + k) s = andThen (runSteps j s) (runSteps k) := by
  induction j generalizing s with
  | zero => rw [Nat.zero_add, runSteps_zero, andThen_next]
  | succ j ih =>
    rw [Nat.succ_add, runSteps_succ, runSteps_succ, andThen_assoc]
    congr 1
    funext t
    exact ih t

/-! ### The one fault of a step -/

/-- An edge of an idle Core never refuses: every command has a meaning. -/
theorem transactEdge_ne_refused {p : Pins} {s : State} (hi : s.phase = .idle) (r : Refusal) :
    transactEdge p s ≠ .refused r := by
  intro he
  cases clockEdge_cases p s with
  | reset _ hedge => cases (hedge _ _).symm.trans he
  | ignored _ _ hedge => cases ((hedge _ _).trans (subStep_idle (endPulse s) hi)).symm.trans he
  | illegal _ _ _ hedge => cases (hedge _ _).symm.trans he
  | command i _ _ _ hedge =>
    have hexec := (hedge _ _).symm.trans he
    rcases exec_next_or_fault i (sample p.tx s) with ⟨t, ht⟩ | ⟨k, -, hk⟩
    · cases ht.symm.trans hexec
    · cases hk.symm.trans hexec

/-- A step is an edge of the state without the pins that it takes from the Host's list. -/
theorem step_ne_refused {s : State} (hi : s.phase = .idle) (r : Refusal) : step s ≠ .refused r := by
  cases hh : s.host with
  | nil => rw [step_nil s hh]; exact transactEdge_ne_refused hi r
  | cons p rest => rw [step_cons s p rest hh]; exact transactEdge_ne_refused (s := { s with host := rest }) hi r

/-- From a state of the invariant a step faults exactly where it accepts an RDW of an entry without a value (R163). -/
theorem State.Inv.step_fault_iff {s : State} (h : s.Inv) (f : Fault) :
    step s = .fault f ↔ ∃ (p : Pins) (rest : List Pins) (i : Fin 64), s.host = p :: rest ∧ p.rstN = true ∧
      p.cmdValid = true ∧ decode p.tx.cmd = some (.rdw i) ∧ s.w[i] = none ∧ f = .unwrittenRead (.w i) := by
  constructor
  · intro hf
    cases hh : s.host with
    | nil =>
      rw [step_nil s hh] at hf
      obtain ⟨ha, -⟩ := h.transactEdge_fault hf
      cases ((accepts_iff Pins.quiet s).mp ha).2.1
    | cons p rest =>
      rw [step_cons s p rest hh] at hf
      obtain ⟨ha, i, hd, hw, hloc⟩ := State.Inv.transactEdge_fault (s := { s with host := rest }) { h with } hf
      obtain ⟨hr, hv, -⟩ := (accepts_iff _ _).mp ha
      exact ⟨p, rest, i, rfl, hr, hv, hd, hw, hloc⟩
  · rintro ⟨p, rest, i, hh, hr, hv, hd, hw, rfl⟩
    rw [stepRunsDecodedCommand s p rest _ hh h.idle.1 hr hv hd]
    exact execRdw_none i _ hw

/-- Settles O48: the fault of a step from the invariant, and a run after its fault makes no step. -/
theorem stepFaultsOnlyOnUnwrittenRead : Obligations.StepFaultsOnlyOnUnwrittenRead := by
  refine ⟨fun s h => ⟨step_ne_refused h.idle.1, h.step_fault_iff⟩, fun j k s f hf => ?_⟩
  have hfirst : runSteps j s = .fault f := hf
  change runSteps (j + k) s = .fault f
  rw [runSteps_add, hfirst, andThen_fault]

/-! ### One phase a cycle (R166, R188, R294; log 6) -/

/-- Settles O54: an idle Core has no sub-step left, and no busy cycle. -/
theorem nominalLatenciesTakeOnePhaseACycle : Obligations.NominalLatenciesTakeOnePhaseACycle := by
  intro ps s hi
  rw [← (subStepsLeft_eq_zero_iff s).mpr hi, timedRun_nominal, andThen_assoc]
  exact andThen_return _

/-- Settles O50: the machine of one phase a cycle is the clocked machine with the nominal latencies, which refines the
atomic command as with all legal ones. -/
theorem subStepsRefineAtomicCommand : Obligations.SubStepsRefineAtomicCommand := by
  intro s p i ps h hr hv hd hlen hps
  have hrefines := everyLatencyRefinesAtomicCommand .nominal s p i ps nominal_legal h hr hv hd hlen hps
  rw [← nominalLatenciesTakeOnePhaseACycle (p :: ps) s h.idle.1, hrefines, andThen_assoc]
  exact andThen_return _

end Sys2Proof.Machine
end

section
/-! SUPPORT. The compression functions: CH, MAJ, USIG0 and USIG1 bit by bit, RDK, one round and its inverse, and COMPRESS with
its 64 rounds and the fold (R180 to R187). -/

namespace Sys2Proof.Machine

/-! ### CH, MAJ, USIG0 and USIG1 (R180 to R183) -/

/-- The equivalent form of `ch` selects in each bit (R180). -/
theorem getLsbD_ch (x y z : Word) (k : Nat) (hk : k < 32) :
    (ch x y z).getLsbD k = if x.getLsbD k = true then y.getLsbD k else z.getLsbD k := by
  simp only [ch, BitVec.getLsbD_or, BitVec.getLsbD_and, BitVec.getLsbD_not, hk, decide_true, Bool.true_and]
  cases x.getLsbD k <;> simp

/-- The equivalent form of `maj` votes in each bit: two of three bits are 1 exactly when some pair of them is (R181). -/
theorem getLsbD_maj_iff (x y z : Word) (k : Nat) :
    (maj x y z).getLsbD k = true ↔
      2 ≤ (x.getLsbD k).toNat + (y.getLsbD k).toNat + (z.getLsbD k).toNat := by
  simp only [maj, BitVec.getLsbD_or, BitVec.getLsbD_and]
  generalize x.getLsbD k = a, y.getLsbD k = b, z.getLsbD k = c
  decide +revert

/-- Bit `k` of the exclusive or of three rotations, the form of both upper Sigma functions. -/
theorem getLsbD_rotr_xor_rotr_xor_rotr (x : Word) (p q r k : Nat) (hk : k < 32) :
    (rotr x p ^^^ rotr x q ^^^ rotr x r).getLsbD k =
      (x.getLsbD ((k + p) % 32) ^^ x.getLsbD ((k + q) % 32) ^^ x.getLsbD ((k + r) % 32)) := by
  simp only [BitVec.getLsbD_xor, getLsbD_rotr x _ k hk]

/-- Settles O12: RES takes `ch` of the operand words, which selects in each bit. -/
theorem chSelectsEveryBit : Obligations.ChSelectsEveryBit :=
  ⟨decode_eq_some_iff_of_wellFormed rfl, fun s => ⟨ch s.opa s.opb s.opc, rfl, getLsbD_ch s.opa s.opb s.opc⟩⟩

/-- Settles O13: RES takes `maj` of the operand words, which votes in each bit. -/
theorem majVotesEveryBit : Obligations.MajVotesEveryBit :=
  ⟨decode_eq_some_iff_of_wellFormed rfl,
    fun s => ⟨maj s.opa s.opb s.opc, rfl, fun k _ => getLsbD_maj_iff s.opa s.opb s.opc k⟩⟩

/-- Settles O14: both functions are three rotations, each of which moves single bits. -/
theorem upperSigmasXorThreeRotations : Obligations.UpperSigmasXorThreeRotations :=
  ⟨decode_eq_some_iff_of_wellFormed rfl, decode_eq_some_iff_of_wellFormed rfl,
    fun s => ⟨usig0 s.opa, usig1 s.opa, rfl, rfl, fun k hk =>
      ⟨getLsbD_rotr_xor_rotr_xor_rotr s.opa 2 13 22 k hk, getLsbD_rotr_xor_rotr_xor_rotr s.opa 6 11 25 k hk⟩⟩⟩

/-! ### RDK (R184) -/

/-- Settles O22. -/
theorem rdkReadsRoundConstant : Obligations.RdkReadsRoundConstant :=
  ⟨fun c i => decode_eq_some_iff_index rfl (by omega) rfl c,
    decode_eq_none_of_zeros (mask := 0xFFC0#16) (by decide) (by decide) (by decide), fun _ _ => rfl⟩

/-! ### One round (R186) -/

/-- `T1` of a round with the working words `s` (R186). -/
def roundT1 (s : Vector Word 8) (k w : Word) : Word := usig1 s[4] + ch s[4] s[5] s[6] + s[7] + k + w

/-- `T2` of a round whose first three working words are `a`, `b`, `c` (R186). -/
def roundT2 (a b c : Word) : Word := usig0 a + maj a b c

/-- A round keeps six of the words in their order, and makes the first and the fifth anew (R186). -/
theorem roundFn_eq (s : Vector Word 8) (k w : Word) :
    roundFn s k w =
      #v[roundT1 s k w + roundT2 s[0] s[1] s[2], s[0], s[1], s[2], s[3] + roundT1 s k w, s[4], s[5], s[6]] := rfl

theorem toNat_roundT1 (s : Vector Word 8) (k w : Word) :
    (roundT1 s k w).toNat =
      ((usig1 s[4]).toNat + (ch s[4] s[5] s[6]).toNat + s[7].toNat + k.toNat + w.toNat) % 2 ^ 32 := by
  simp only [roundT1, BitVec.toNat_add, Nat.mod_add_mod]

theorem toNat_roundT2 (a b c : Word) : (roundT2 a b c).toNat = ((usig0 a).toNat + (maj a b c).toNat) % 2 ^ 32 :=
  BitVec.toNat_add _ _

/-- Settles O24: the two new words are sums with `T1`, and sums mod 2^32 may be reduced at the end. -/
theorem roundShiftsWorkingWords : Obligations.RoundShiftsWorkingWords := by
  intro s k w
  refine ⟨?_, rfl, rfl, rfl, ?_, rfl, rfl, rfl⟩
  · calc (roundFn s k w)[0].toNat
      _ = (roundT1 s k w + roundT2 s[0] s[1] s[2]).toNat := by rw [roundFn_eq]; rfl
      _ = _ := by rw [BitVec.toNat_add, toNat_roundT1, toNat_roundT2, ← Nat.add_mod]
  · calc (roundFn s k w)[4].toNat
      _ = (s[3] + roundT1 s k w).toNat := by rw [roundFn_eq]; rfl
      _ = _ := by rw [BitVec.toNat_add, toNat_roundT1, Nat.add_mod_mod]

/-- `T1` of the round that gave the words `n`: `T2` is a function of the words that the round kept (R186). -/
def recoveredT1 (n : Vector Word 8) : Word := n[0] - roundT2 n[1] n[2] n[3]

/-- The working words before the round that gave `n`: six are kept, and `T1` gives back the fourth and the eighth. -/
def roundInverse (n : Vector Word 8) (k w : Word) : Vector Word 8 :=
  #v[n[1], n[2], n[3], n[4] - recoveredT1 n, n[5], n[6], n[7],
    recoveredT1 n - (usig1 n[5] + ch n[5] n[6] n[7] + k + w)]

theorem recoveredT1_roundFn (s : Vector Word 8) (k w : Word) : recoveredT1 (roundFn s k w) = roundT1 s k w :=
  add_sub_cancel_right (roundT1 s k w) (roundT2 s[0] s[1] s[2])

theorem roundT1_roundInverse (n : Vector Word 8) (k w : Word) : roundT1 (roundInverse n k w) k w = recoveredT1 n := by
  change usig1 n[5] + ch n[5] n[6] n[7] + (recoveredT1 n - (usig1 n[5] + ch n[5] n[6] n[7] + k + w)) + k + w = _
  abel

/-- A file of eight words is the list of its words. -/
theorem vector_eq_words (v : Vector Word 8) : v = #v[v[0], v[1], v[2], v[3], v[4], v[5], v[6], v[7]] := by
  ext i hi : 1
  interval_cases i <;> rfl

theorem roundInverse_roundFn (s : Vector Word 8) (k w : Word) : roundInverse (roundFn s k w) k w = s := by
  have hd : s[3] + roundT1 s k w - roundT1 s k w = s[3] := add_sub_cancel_right _ _
  have hh : roundT1 s k w - (usig1 s[4] + ch s[4] s[5] s[6] + k + w) = s[7] := by
    rw [roundT1]
    abel
  calc roundInverse (roundFn s k w) k w
    _ = #v[s[0], s[1], s[2], s[3] + roundT1 s k w - recoveredT1 (roundFn s k w), s[4], s[5], s[6],
          recoveredT1 (roundFn s k w) - (usig1 s[4] + ch s[4] s[5] s[6] + k + w)] := rfl
    _ = s := by rw [recoveredT1_roundFn, hd, hh, ← vector_eq_words]

theorem roundFn_roundInverse (n : Vector Word 8) (k w : Word) : roundFn (roundInverse n k w) k w = n := by
  have ha : recoveredT1 n + roundT2 n[1] n[2] n[3] = n[0] := sub_add_cancel _ _
  have he : n[4] - recoveredT1 n + recoveredT1 n = n[4] := sub_add_cancel _ _
  calc roundFn (roundInverse n k w) k w
    _ = #v[roundT1 (roundInverse n k w) k w + roundT2 n[1] n[2] n[3], n[1], n[2], n[3],
          n[4] - recoveredT1 n + roundT1 (roundInverse n k w) k w, n[5], n[6], n[7]] :=
        roundFn_eq (roundInverse n k w) k w
    _ = n := by rw [roundT1_roundInverse, ha, he, ← vector_eq_words]

/-- Settles O25: `roundInverse` undoes a round and is undone by it. -/
theorem roundIsBijective : Obligations.RoundIsBijective := fun k w =>
  Function.bijective_iff_has_inverse.mpr ⟨fun n => roundInverse n k w, fun s => roundInverse_roundFn s k w,
    fun n => roundFn_roundInverse n k w⟩

/-! ### The rounds and COMPRESS (R187) -/

/-- The rounds of a compression are the states after 0, 1, ..., 64 of them (R187). -/
theorem isRounds_runRounds (hin : Vector Word 8) (W : Vector Word 64) : IsRounds hin W (runRounds hin W) :=
  ⟨roundsBelow hin W, rfl, fun r hr => roundsBelow_succ hin W r hr, (runRounds_eq_roundsBelow hin W).symm⟩

/-- A compression puts the output of the rounds into WR and folds it into H (R187). -/
theorem compressStorage_registers (W : Vector Word 64) (s : State) (j : Fin 8) :
    (compressStorage W s).wr[j] = some (runRounds s.h W)[j] ∧
      (compressStorage W s).h[j] = s.h[j] + (runRounds s.h W)[j] :=
  ⟨written_getElem _ j.val j.isLt, foldState_getElem _ _ j.val j.isLt⟩

/-- A memory each entry of which holds the word of `W` is `W` written. -/
theorem eq_written_of_getElem {n : Nat} {v : Vector (Option Word) n} {W : Vector Word n}
    (h : ∀ i : Fin n, v[i] = some W[i]) : v = written W := by
  ext k hk : 1
  rw [written_getElem]
  exact h ⟨k, hk⟩

/-- Settles O26: without a valid schedule COMPRESS raises its error, of code 2; with one it compresses the block. -/
theorem compressRunsRoundsAndFolds : Obligations.CompressRunsRoundsAndFolds :=
  ⟨decode_eq_some_iff_of_wellFormed rfl, execCompress_invalid,
    fun s W hsv hW => ⟨runRounds s.h W, compressStorage W s, isRounds_runRounds s.h W,
      execCompress_valid s hsv W (eq_written_of_getElem hW), rfl, compressStorage_registers W s⟩⟩

end Sys2Proof.Machine
end

section
/-! SUPPORT. The chaining state: INIT, LDH and RDH, HASHBLK against EXPAND and COMPRESS, and the protocol of a message over
the Host's list (R80, R210 to R214). -/

namespace Sys2Proof.Machine

/-! ### INIT, LDH and RDH (R210 to R212) -/

/-- Settles O27. -/
theorem initLoadsInitializationConstants : Obligations.InitLoadsInitializationConstants :=
  ⟨decode_eq_some_iff_of_wellFormed rfl, fun _ => rfl⟩

/-- LDH writes H[j] only (R211). -/
theorem writeH_h_getElem (j : Fin 8) (v : Word) (s : State) (k : Fin 8) :
    (writeH j v s).h[k] = if k = j then v else s.h[k] := by
  simp [Vector.getElem_set, Fin.ext_iff, eq_comm]

/-- Settles O28: the next state is that of `writeH`. -/
theorem ldhWritesOneChainingWord : Obligations.LdhWritesOneChainingWord :=
  ⟨fun c j => decode_eq_some_iff_index rfl (by omega) rfl c,
    decode_eq_none_of_zeros (mask := 0xFFF8#16) (by decide) (by decide) (by decide),
    fun s j => ⟨writeH j s.opa s, rfl, rfl, writeH_h_getElem j s.opa s⟩⟩

/-- Settles O29. -/
theorem rdhReadsOneChainingWord : Obligations.RdhReadsOneChainingWord :=
  ⟨fun c j => decode_eq_some_iff_index rfl (by omega) rfl c,
    decode_eq_none_of_zeros (mask := 0xFFF8#16) (by decide) (by decide) (by decide), fun _ _ => rfl⟩

/-! ### HASHBLK (R213) -/

theorem Status.messageComplete_eq_false {st : Status} (h : st.wvalid ≠ 0xFFFF#16) : st.messageComplete = false :=
  Bool.eq_false_iff.mpr (mt st.messageComplete_iff.mp h)

/-- Settles O30: without all message words HASHBLK raises its error, of code 3; with them it stores their expansion and
compresses over it. -/
theorem hashblkExpandsAndCompresses : Obligations.HashblkExpandsAndCompresses := by
  refine ⟨decode_eq_some_iff_of_wellFormed rfl,
    fun s hw => execHashblk_incomplete s (Status.messageComplete_eq_false hw), fun s m hw hm => ?_⟩
  have hc : s.status.messageComplete = true := (Status.messageComplete_iff _).mpr hw
  exact ⟨expand m, runRounds s.h (expand m), _, isExpansion_expand m, isRounds_runRounds s.h _,
    execHashblk_complete s hc m hm, rfl, fun k => storeSchedule_getElem (expand m) s.w k k.isLt,
    compressStorage_registers (expand m) { s with w := storeSchedule (expand m) s.w }⟩

/-- COMPRESS consumes the block, so it does not matter whether EXPAND has set SV before (R187, R213). -/
theorem compressStorage_markScheduleMade (W : Vector Word 64) (s : State) :
    compressStorage W (markScheduleMade s) = compressStorage W s := rfl

/-- HASHBLK is EXPAND, then COMPRESS, where all message words hold a word (R213). -/
theorem exec_hashblk_eq_exec_compress (s : State) (hc : s.status.messageComplete = true) (m : Vector Word 16)
    (hm : ∀ i : Fin 16, s.w[i.val] = some m[i]) :
    exec .hashblk s = exec .compress (markScheduleMade { s with w := storeSchedule (expand m) s.w }) :=
  calc exec .hashblk s
    _ = .next (compressStorage (expand m) { s with w := storeSchedule (expand m) s.w }) := execHashblk_complete s hc m hm
    _ = .next (compressStorage (expand m) (markScheduleMade { s with w := storeSchedule (expand m) s.w })) := by
        rw [compressStorage_markScheduleMade]
    _ = exec .compress _ := (execCompress_valid _ rfl (expand m) (storeSchedule_expand m s.w hm)).symm

/-- A memory whose entries from 16 on follow the recurrence holds the expansion of its message words (R38, R165). -/
theorem eq_written_expand_of_scheduleExpanded {w : Vector (Option Word) 64} {m : Vector Word 16}
    (hm : ∀ i : Fin 16, w[i.val] = some m[i]) {W : Vector Word 64} (hW : w = written W) (h : scheduleExpanded w) :
    w = written (expand m) := by
  subst hW
  have hexp : IsExpansion m W := by
    refine ⟨fun t ht => ?_, fun t h16 ht => ?_⟩
    · simpa using hm ⟨t, ht⟩
    · obtain ⟨s2, s7, s15, s16, h2, h7, h15, h16', ht'⟩ := h t h16 ht
      simp only [written_getElem, Option.some.injEq] at h2 h7 h15 h16' ht'
      rw [ht', h2, h7, h15, h16', scheduleWord]
  rw [hexp.unique (isExpansion_expand m)]

/-- Where SV = 1 the schedule already stands, and EXPAND changes nothing (R42, R45, R164). -/
theorem State.Inv.exec_expand_of_sv {s : State} (h : s.Inv) (hsv : s.status.sv = true) : exec .expand s = .next s := by
  have hw := h.complete hsv
  obtain ⟨m, hm⟩ := h.message hw
  obtain ⟨W, hW⟩ := h.schedule hsv
  have hstored : storeSchedule (expand m) s.w = s.w :=
    (storeSchedule_expand m s.w hm).trans (eq_written_expand_of_scheduleExpanded hm hW (h.expanded hsv)).symm
  have hmade : markScheduleMade s = s := by rw [markScheduleMade, Status.scheduleMade, ← hsv]
  refine (execExpand_complete s ((Status.messageComplete_iff _).mpr hw) m hm).trans ?_
  rw [hstored, hmade]

/-- Settles O31: with SV = 1 the state that EXPAND leaves for COMPRESS is the state before it. -/
theorem hashblkEqualsExpandThenCompress : Obligations.HashblkEqualsExpandThenCompress := by
  intro s h
  have complete (hw : s.status.wvalid = 0xFFFF#16) :
      ∃ t, exec .expand s = .next t ∧ exec .hashblk s = exec .compress t := by
    have hc := (Status.messageComplete_iff _).mpr hw
    obtain ⟨m, hm⟩ := h.message hw
    exact ⟨_, execExpand_complete s hc m hm, exec_hashblk_eq_exec_compress s hc m hm⟩
  refine ⟨complete, fun hw => ?_, fun hsv => ?_⟩
  · have hc := Status.messageComplete_eq_false hw
    exact (execHashblk_incomplete s hc).trans (execExpand_incomplete s hc).symm
  · obtain ⟨t, hexpand, hhash⟩ := complete (h.complete hsv)
    rw [hhash, next_eq (h.exec_expand_of_sv hsv) hexpand]

/-! ### Lines of the Host's list, one after another (R81, R286) -/

/-- Presented to a Core in the state `s`, before anything else in the Host's list, the lines `ls` are run in as many steps,
which keep the invariant, ERR and RES, and end in a state with `Q`. -/
def LinesGive (ls : List Line) (s : State) (Q : State → Prop) : Prop :=
  ∀ rest, s.host = driveOf ls ++ rest →
    ∃ t, runSteps ls.length s = .next t ∧ t.Inv ∧ t.host = rest ∧ Q t ∧ t.status.err = s.status.err ∧ t.res = s.res

section Lines

variable {s : State} {P Q : State → Prop}

theorem LinesGive.nil (h : s.Inv) (hQ : Q s) : LinesGive [] s Q :=
  fun _ hh => ⟨s, rfl, h, hh, hQ, rfl, rfl⟩

theorem LinesGive.mono {ls : List Line} (h : LinesGive ls s P) (hPQ : ∀ t, P t → Q t) : LinesGive ls s Q := by
  intro rest hh
  obtain ⟨t, hrun, ht, hhost, hP, hkept⟩ := h rest hh
  exact ⟨t, hrun, ht, hhost, hPQ t hP, hkept⟩

/-- What the first lines give is what the later ones start from. -/
theorem LinesGive.append {ls ls' : List Line} (h : LinesGive ls s P)
    (h' : ∀ u : State, u.Inv → P u → LinesGive ls' u Q) : LinesGive (ls ++ ls') s Q := by
  intro rest hh
  rw [driveOf, List.map_append, List.append_assoc] at hh
  obtain ⟨u, hrun, hu, hhost, hP, herr, hres⟩ := h _ hh
  obtain ⟨t, hrun', ht, hhost', hQ, herr', hres'⟩ := h' u hu hP rest hhost
  refine ⟨t, ?_, ht, hhost', hQ, herr'.trans herr, hres'.trans hres⟩
  rw [List.length_append, runSteps_add, hrun, andThen_next, hrun']

/-- One line of a command that writes no RES: the step accepts it and runs the command on its transaction (R286). -/
theorem LinesGive.line {l : Line} (h : s.Inv) (hwf : l.instr.wellFormed = true) (hres : writesRes l.instr = false)
    (hexec : ∀ rest, ∃ t, exec l.instr (sample l.transaction { s with host := rest }) = .next t ∧
      t.status.err = s.status.err ∧ Q t) : LinesGive [l] s Q := by
  intro rest hh
  obtain ⟨t, he, herr, hQ⟩ := hexec rest
  have hstep : step s = .next t :=
    (stepRunsDecodedCommand s l.pins rest l.instr hh h.idle.1 rfl rfl (decodeOfEncodeIsIdentity l.instr hwf)).trans he
  obtain ⟨-, -, -, hresKept, -, -, -, -, hhost, -⟩ := onlyNamedCommandsWriteStorage _ _ _ he
  have hkept : t.res = s.res := by
    by_contra hne
    cases hres.symm.trans (hresKept hne)
  refine ⟨t, ?_, everyStepKeepsInvariant s t h hstep, hhost, hQ, herr, hkept⟩
  rw [List.length_singleton, runSteps_succ, hstep]
  rfl

end Lines

/-! ### The lines of one block (R80, R214) -/

/-- The word `i` of the message `m` is loaded in `s` (R34, R43). -/
def MessageWordStands (m : Vector Word 16) (s : State) (i : Fin 16) : Prop :=
  s.w[i.val] = some m[i] ∧ s.status.wvalid.getLsbD i = true

/-- Where all message words stand, WVALID = 0xFFFF (R43). -/
theorem messageComplete_of_stands {m : Vector Word 16} {s : State} (hstands : ∀ k, MessageWordStands m s k) :
    s.status.messageComplete = true := by
  refine (Status.messageComplete_iff _).mpr (BitVec.eq_of_getLsbD_eq fun k hk => ?_)
  have hones : (0xFFFF#16).getLsbD k = decide (k < 16) := BitVec.getLsbD_allOnes
  rw [hones, decide_eq_true hk]
  exact (hstands ⟨k, hk⟩).2

section Block

variable {s : State} (h : s.Inv) (m : Vector Word 16)
include h

/-- LDW i loads word `i`, and the words that stood before still stand (R162). -/
theorem linesGive_ldw (i : Fin 16) :
    LinesGive [Line.word (.ldw i) m[i]] s fun t =>
      t.h = s.h ∧ ∀ k, k = i ∨ MessageWordStands m s k → MessageWordStands m t k := by
  refine .line h rfl rfl fun rest => ⟨_, rfl, rfl, rfl, fun k hk => ?_⟩
  have hw := loadMessageWord_w_getElem i m[i] s (k.castLE (by decide))
  have hv := s.status.messageWordLoaded_wvalid_getLsbD i k
  by_cases hki : k = i
  · subst hki
    exact ⟨hw.trans (if_pos rfl), hv.trans (if_pos rfl)⟩
  · have hne : k.val ≠ i.val := Fin.val_ne_of_ne hki
    obtain ⟨hword, hvalid⟩ := hk.resolve_left hki
    exact ⟨hw.trans ((if_neg hne).trans hword), hv.trans ((if_neg hne).trans hvalid)⟩

/-- LDW of the indexes `is` loads the words of all of them. -/
theorem linesGive_loadWords (is : List (Fin 16)) :
    LinesGive (is.map fun i => Line.word (.ldw i) m[i]) s fun t =>
      t.h = s.h ∧ ∀ k, k ∈ is ∨ MessageWordStands m s k → MessageWordStands m t k := by
  induction is generalizing s with
  | nil => exact .nil h ⟨rfl, fun k hk => hk.resolve_left List.not_mem_nil⟩
  | cons i is ih =>
    refine (linesGive_ldw h m i).append fun u hu ⟨hh, hstands⟩ => (ih hu).mono fun t ⟨hh', hstands'⟩ =>
      ⟨hh'.trans hh, fun k hk => hstands' k ?_⟩
    rw [List.mem_cons, or_right_comm] at hk
    exact hk.symm.imp_right (hstands k)

/-- The sixteen lines LDW load the whole message and leave H (R110). -/
theorem linesGive_loadBlock :
    LinesGive (loadBlockLines m) s fun t => t.h = s.h ∧ ∀ k, MessageWordStands m t k :=
  (linesGive_loadWords h m (List.finRange 16)).mono fun _ ⟨hh, hstands⟩ =>
    ⟨hh, fun k => hstands k (.inl (List.mem_finRange k))⟩

/-- HASHBLK chains the block that stands (R213). -/
theorem linesGive_hashblk (hstands : ∀ k, MessageWordStands m s k) :
    LinesGive [Line.plain .hashblk] s fun t => t.h = hashBlock s.h m :=
  .line h rfl rfl fun rest =>
    ⟨_, execHashblk_complete (sample _ { s with host := rest }) (messageComplete_of_stands hstands) m
      fun k => (hstands k).1, rfl, rfl⟩

/-- EXPAND makes the schedule of the block that stands, and sets SV (R164). -/
theorem linesGive_expand (hstands : ∀ k, MessageWordStands m s k) :
    LinesGive [Line.plain .expand] s fun t => t.h = s.h ∧ t.status.sv = true ∧ t.w = written (expand m) :=
  .line h rfl rfl fun rest =>
    ⟨_, execExpand_complete (sample _ { s with host := rest }) (messageComplete_of_stands hstands) m
      fun k => (hstands k).1, rfl, rfl, rfl, storeSchedule_expand m s.w fun k => (hstands k).1⟩

/-- COMPRESS chains the block whose schedule stands (R187). -/
theorem linesGive_compress (hsv : s.status.sv = true) (hw : s.w = written (expand m)) :
    LinesGive [Line.plain .compress] s fun t => t.h = hashBlock s.h m :=
  .line h rfl rfl fun rest =>
    ⟨_, execCompress_valid (sample _ { s with host := rest }) hsv (expand m) hw, rfl, rfl⟩

/-- The lines of one block chain it, in both modes (R80, R214). -/
theorem linesGive_block (mode : BlockMode) : LinesGive (blockLines mode m) s fun t => t.h = hashBlock s.h m := by
  refine (linesGive_loadBlock h m).append fun u hu ⟨hh, hstands⟩ => ?_
  rw [← hh]
  cases mode with
  | combined => exact linesGive_hashblk hu m hstands
  | separate =>
    refine (linesGive_expand hu m hstands).append (ls' := [Line.plain .compress]) fun v hv ⟨hh', hsv, hw⟩ => ?_
    rw [← hh']
    exact linesGive_compress hv m hsv hw

/-- The lines of the blocks `ms` chain them in order (R80, R214). -/
theorem linesGive_blocks (mode : BlockMode) (ms : List (Vector Word 16)) :
    LinesGive (ms.flatMap (blockLines mode)) s fun t => t.h = ms.foldl hashBlock s.h := by
  induction ms generalizing s with
  | nil => exact .nil h rfl
  | cons m ms ih =>
    rw [List.flatMap_cons]
    refine (linesGive_block h m mode).append fun u hu hh => ?_
    rw [List.foldl_cons, ← hh]
    exact ih hu

/-- INIT, then the blocks: the message is chained from IV (R214). -/
theorem linesGive_message (mode : BlockMode) (ms : List (Vector Word 16)) :
    LinesGive (messageLines mode ms) s fun t => t.h = hashBlocks ms := by
  have hinit : LinesGive [Line.plain .init] s fun t => t.h = ivRom := .line h rfl rfl fun _ => ⟨_, rfl, rfl, rfl⟩
  refine hinit.append fun u hu hh => ?_
  rw [hashBlocks, ← hh]
  exact linesGive_blocks hu mode ms

end Block

/-- Settles O59: by induction on the blocks, of each of which the lines load the words and chain it. -/
theorem protocolChainsBlocks : Obligations.ProtocolChainsBlocks :=
  fun mode ms rest _ h hh => linesGive_message h mode ms rest hh

end Sys2Proof.Machine
end

section
/-! SUPPORT. The control commands: the words around NOP, and STATUS bit by bit as RDSTAT reads it (R38, R230 to R232). -/

namespace Sys2Proof.Machine

/-! ### NOP and CLRERR (R230, R231) -/

/-- A word other than NOP's with NOP's CLASS and FN is illegal, since its IMM8 is not zero (R106, R230). -/
theorem decode_eq_none_of_nop_imm {c : CmdWord} (hlt : c.toNat < 256) (hne : c ≠ 0) : decode c = none := by
  have hclass : c &&& 0xFF00#16 = 0 := BitVec.eq_of_toNat_eq <|
    calc (c &&& 0xFF00#16).toNat
      _ = c.toNat / 256 * 256 := toNat_and_highMask c 8
      _ = 0 := by rw [Nat.div_eq_of_lt hlt, Nat.zero_mul]
  refine decode_eq_none_of_zeros (mask := 0xFFFF#16) (zeros := BitVec.allOnes 16) (by decide) (by decide) (by decide) c
    hclass ?_
  rwa [BitVec.and_allOnes]

/-- Settles O32: NOP answers its own state, CLRERR that of `clearError`, and 0x0001 to 0x00FF have NOP's CLASS and FN. -/
theorem nopAndClrerrEffects : Obligations.NopAndClrerrEffects := by
  refine ⟨decode_eq_some_iff_of_wellFormed rfl, decode_eq_some_iff_of_wellFormed rfl, fun c hlo hhi => ?_,
    fun _ => ⟨rfl, rfl⟩⟩
  have hne : c ≠ 0 := by
    rintro rfl
    exact absurd hlo (by decide)
  exact decode_eq_none_of_nop_imm (Nat.lt_succ_of_le hhi) hne

/-! ### RDSTAT (R232) -/

/-- STATUS bit by bit, in the layout of R38. -/
theorem getLsbD_statusWord (s : State) (n : Nat) : s.statusWord.getLsbD n =
    if n < 1 then s.busy else if n < 2 then s.status.err else if n < 3 then s.status.sv else if n < 4 then false
    else if n < 8 then s.status.ecode.getLsbD (n - 4) else if n < 16 then false
    else s.status.wvalid.getLsbD (n - 16) := by
  have hsplit : s.statusWord.getLsbD n = _ := BitVec.getLsbD_append
  simp only [hsplit, BitVec.getLsbD_append, BitVec.getLsbD_ofBool, BitVec.getLsbD_zero]
  -- both sides are now the seven fields from the bottom, the left one with `n` counted from each field's own bit 0
  grind

/-- Settles O33: RES takes `statusWord`, and each field is read off its layout. -/
theorem rdstatReadsStatusLayout : Obligations.RdstatReadsStatusLayout := by
  refine ⟨decode_eq_some_iff_of_wellFormed rfl, fun s => ⟨s.statusWord, rfl, getLsbD_statusWord s 0,
    getLsbD_statusWord s 1, getLsbD_statusWord s 2, getLsbD_statusWord s 3, fun k hk => ?_, fun k hk => ?_,
    fun k hk => ?_⟩⟩
  · simp (disch := omega) only [getLsbD_statusWord, if_pos, if_neg, Nat.add_sub_cancel_left]
  · simp (disch := omega) only [getLsbD_statusWord, if_pos, if_neg]
  · simp (disch := omega) only [getLsbD_statusWord, if_neg, Nat.add_sub_cancel_left]

end Sys2Proof.Machine
end

section
/-! SUPPORT. The commands that raise an error, and the edge of an idle Core to which nothing is presented (R251, R253, R266,
R286, R288). -/

namespace Sys2Proof.Machine

/-! ### Which commands raise which error (R251, R253) -/

/-- Where no error is recorded, raising one records its code (R251, R252). -/
theorem raiseCoreError_ecode_of_no_err (e : CoreError) {s : State} (h : s.status.err = false) :
    (raiseCoreError e s).status.ecode = errorCode e := by
  rw [raiseCoreError_status, Status.recordError_of_no_err e _ h]

/-- A command that sets ERR makes a sequencing check that fails, and does nothing but raise that check's error (R251,
R253). -/
theorem exec_raises {i : Instr} {s t : State} (h : exec i s = .next t) (h0 : s.status.err = false)
    (h1 : t.status.err = true) :
    (i = .compress ∧ s.status.sv = false ∧ t = raiseCoreError .scheduleNotValid s) ∨
      ((i = .expand ∨ i = .hashblk) ∧ s.status.messageComplete = false ∧
        t = raiseCoreError .messageIncomplete s) := by
  cases exec_cases h with
  | compressError hi hc ht => exact .inl ⟨hi, hc, ht⟩
  | expandError hi hc ht => exact .inr ⟨.inl hi, hc, ht⟩
  | hashblkError hi hc ht => exact .inr ⟨.inr hi, hc, ht⟩
  | nothing _ ht | errorCleared _ ht | result _ _ _ _ ht | scheduleRead _ _ _ _ ht | workingRead _ _ ht
  | messageWord _ _ _ ht | initialized _ ht | chainingWord _ _ _ ht | expanded _ _ _ _ ht | compressed _ _ _ _ ht
  | hashed _ _ _ _ ht =>
    -- every other update keeps ERR or clears it
    simp [ht, h0] at h1

/-- Settles O35: the command raises the error of its failed check, which records that error's code and nothing else. -/
theorem onlySequencingChecksRaiseErrors : Obligations.OnlySequencingChecksRaiseErrors := by
  intro i s t h h0 h1
  rcases exec_raises h h0 h1 with ⟨hi, hsv, rfl⟩ | ⟨hi, hc, rfl⟩ <;>
    rw [raiseCoreError_ecode_of_no_err _ h0, raiseCoreError_eq_withErrorCode]
  · exact ⟨rfl, .inl ⟨hi, hsv, rfl⟩⟩
  · have hw : s.status.wvalid ≠ 0xFFFF#16 := mt s.status.messageComplete_iff.mpr (Bool.eq_false_iff.mp hc)
    exact ⟨rfl, .inr ⟨hi, hw, rfl⟩⟩

/-! ### An idle Core to which nothing is presented (R266, R286, R288) -/

/-- The transaction-level edge at which an idle Core is presented nothing (R286, R288). -/
theorem transactEdge_nothing (p : Pins) (s : State) (hr : p.rstN = true) (hv : p.cmdValid = false)
    (hi : s.phase = .idle) : transactEdge p s = .next (endPulse s) := by
  rw [transactEdge, clockEdge_nothing _ _ _ _ hr hv]
  exact subStep_idle (endPulse s) hi

/-- Settles O42: at the end of its list and with `cmd_valid` 0 the Host presents nothing. -/
theorem stepWithoutCommandKeepsState : Obligations.StepWithoutCommandKeepsState := by
  constructor
  · intro s hhost hidle
    exact (step_nil s hhost).trans (transactEdge_nothing _ s rfl rfl hidle)
  · intro s p rest hhost hidle hr hv
    exact (step_cons s p rest hhost).trans (transactEdge_nothing p { s with host := rest } hr hv hidle)

end Sys2Proof.Machine
end

section
/-! SUPPORT. What an edge makes of RES and of the pulse of `res_valid`, what a reset edge leaves, and that the pins of an edge
that accepts nothing have no effect (R37, R50, R280, R281, R286, R288). -/

namespace Sys2Proof.Machine

/-! ### The pulse of `res_valid` (R37, R288) -/

/-- Of what `run` does with an accepted command: a result command raises `res_valid`, and every other one keeps RES and the
level of `res_valid` (R37, R288). -/
def PulsesForResults (run : Instr → State → Result) : Prop :=
  ∀ {i : Instr} {s t : State}, run i s = .next t →
    t.resValid = (writesRes i || s.resValid) ∧ (writesRes i = false → t.res = s.res)

/-- The whole commands do so, by the update that each case makes. -/
theorem exec_pulsesForResults : PulsesForResults exec := by
  intro i s t h
  cases exec_cases h with
  | result v hi _ _ ht => subst ht; simp [hi]
  | scheduleRead k v hi _ ht => subst hi ht; exact ⟨rfl, nofun⟩
  | workingRead j hi ht => subst hi ht; exact ⟨rfl, nofun⟩
  | nothing hi ht | errorCleared hi ht | messageWord _ _ hi ht | initialized hi ht | chainingWord _ _ hi ht
  | expandError hi _ ht | expanded _ hi _ _ ht | compressError hi _ ht | compressed _ hi _ _ ht
  | hashblkError hi _ ht | hashed _ hi _ _ ht =>
    -- no result command, and its update touches neither RES nor `res_valid`
    subst hi ht
    exact ⟨rfl, fun _ => rfl⟩

/-- No multi-cycle command is a result command (R37, R38). -/
theorem writesRes_of_multiCycleOp {i : Instr} {o : SeqOp} (h : multiCycleOp i = some o) : writesRes i = false := by
  cases i <;> cases h <;> rfl

/-- So do the accept cycles: a multi-cycle command that starts there touches neither RES nor `res_valid` (R37, R288). -/
theorem startCommand_pulsesForResults : PulsesForResults startCommand := by
  intro i s t h
  rcases startCommand_cases nominal_legal i s with ⟨o, ho, -, hstart, -⟩ | ⟨-, hstart, -⟩
  · cases next_eq hstart h
    rw [writesRes_of_multiCycleOp ho]
    exact ⟨rfl, fun _ => rfl⟩
  · exact exec_pulsesForResults (hstart.symm.trans h)

/-- Settles O45: at both levels an edge ends the pulse before an accepted command can start a new one, and neither an illegal
word nor a sub-step does. -/
theorem resultPulsesForOneCycle : Obligations.ResultPulsesForOneCycle := by
  refine ⟨fun rstN s => Bool.and_eq_true_iff, fun edge hedge => ?_⟩
  obtain ⟨run, hrun, rfl⟩ : ∃ run, PulsesForResults run ∧ edge = clockEdge run subStep := by
    rcases hedge with rfl | rfl
    · exact ⟨exec, exec_pulsesForResults, rfl⟩
    · exact ⟨startCommand, startCommand_pulsesForResults, rfl⟩
  refine ⟨?accepted, ?illegal, ?ignored, ?reset⟩
  case accepted =>
    intro s t p i hi hr hv hd h
    rw [clockEdge_accept _ _ _ _ hr hv hi, runSampled_some _ _ i hd] at h
    simpa using hrun h
  case illegal =>
    intro s t p hi hr hv hd h
    rw [clockEdge_accept _ _ _ _ hr hv hi, runSampled_none _ _ hd] at h
    cases h
    exact ⟨rfl, rfl⟩
  case ignored =>
    intro s t p hr ha h
    rw [clockEdge_ignored _ _ _ _ hr ha] at h
    obtain ⟨hres, hvalid⟩ := subStep_result h
    exact ⟨hvalid, hres⟩
  case reset =>
    intro s t p hr h
    rw [clockEdge_reset _ _ _ _ hr] at h
    cases h
    exact ⟨rfl, rfl⟩

/-! ### Reset (R50, R280, R281) -/

/-- STATUS reads as zero after a reset edge (R50). -/
theorem statusWord_enterReset (s : State) : (enterReset s).statusWord = 0 := by
  -- STATUS and the phase, the fields that `statusWord` reads, are those of `State.reset`
  have hreset : State.reset.statusWord = 0 := by decide
  exact hreset

/-- Settles O43: at both levels the edge answers `enterReset s`, in every phase of the sequencer. -/
theorem resetAbandonsAnyCommand : Obligations.ResetAbandonsAnyCommand := by
  intro s p hr
  refine ⟨by simp [cmdReady, hr], enterReset s, clockEdge_reset _ _ p s hr, clockEdge_reset _ _ p s hr, rfl,
    fun _ => Vector.getElem_replicate _, fun _ => Vector.getElem_replicate _, rfl, statusWord_enterReset s, rfl, rfl,
    rfl⟩

/-! ### An edge that accepts nothing (R286, R289) -/

/-- Settles O44: such an edge is a sub-step of the sequencer, which does not see the pins. -/
theorem ignoredPinsHaveNoEffect : Obligations.IgnoredPinsHaveNoEffect := by
  intro s p q hrp hrq hp hq
  have hsame (run : Instr → State → Result) : clockEdge run subStep p s = clockEdge run subStep q s := by
    rw [clockEdge_ignored _ _ _ _ hrp hp, clockEdge_ignored _ _ _ _ hrq hq]
  exact ⟨hsame startCommand, hsame exec⟩

end Sys2Proof.Machine
end
